-- ==== Sys2Proof/Word.lean ====
section
/-! DEFINITION. The plain words of the block: bytes (R61), the selector word (R98), and the operands a request
carries beside it (R101). -/

namespace Sys2Proof

/-- A byte, the only width any memory of the core holds (R61). -/
abbrev Byte := BitVec 8

/-- The 16-bit operation selector (R98). -/
abbrev Selector := BitVec 16

/-- The allocator's draw of an ATTACH, a free input of that step (R212, D28). -/
inductive Alloc where
  | ok
  | fail
  deriving DecidableEq, Repr, Inhabited

/-- Everything a request may carry beside its selector (R101): ATTACH reads the first four, WRITE the last two, every
other operation none. -/
structure Operands where
  cfgWidth : Option Nat
  cfgHeight : Option Nat
  cfgPanelCount : Option Nat
  alloc : Alloc
  addr : Nat
  data : Byte
  deriving DecidableEq, Repr, Inhabited

end Sys2Proof
end

