-- ==== Sys2Proof/Syntax.lean ====
section
/-! DEFINITION. The operations of the block: one constructor per row of spec/opcode_table.json (R100), with the operands
of R101. PIXEL is a micro-operation of COMPOSE and has no row (R142). -/

namespace Sys2Proof

inductive Instr where
  /-- ATTACH (HOST, R212): three optional configuration values and the allocator's draw. -/
  | attach (cfgWidth cfgHeight cfgPanelCount : Option Nat) (alloc : Alloc)
  /-- DETACH (HOST, R214). -/
  | detach
  /-- WRITE (WRITER, R215). -/
  | write (addr : Nat) (data : Byte)
  /-- START (WORK, R174). -/
  | start
  /-- COMPOSE (WORK, R175). -/
  | compose
  /-- SEND.ISSUE (WORK, R176). -/
  | sendIssue
  /-- SEND.DONE (WORK, R177). -/
  | sendDone
  /-- EXPIRE (TIMER, R178). -/
  | expire
  /-- ADVANCE (WORK, R179). -/
  | advance
  /-- DRAIN (WORK, R180). -/
  | drain
  /-- BUS.OK (BUS, R221). -/
  | busOk
  /-- BUS.ERR (BUS, R222). -/
  | busErr
  deriving DecidableEq, Repr, Inhabited

end Sys2Proof
end

