-- ==== Sys2Proof/Config.lean ====
section
/-! DEFINITION. What the platform fixes (R10), what an agent can ask for, and the free values: constants without a body,
so that nothing can be proved of their values. -/

namespace Sys2Proof.Machine

/-- The OPEN parameters ATTACH reads (R10, R272). A capacity `none` is no bound. -/
structure Platform where
  /-- BUS_MAX_XFER. -/
  busMaxXfer : Option Nat
  /-- MAX_BITMAP_BYTES. -/
  maxBitmapBytes : Option Nat
  /-- MAX_FRAME_BYTES. -/
  maxFrameBytes : Option Nat
  /-- PULSE_LINE_CAN_SLEEP. -/
  pulseLineCanSleep : Bool
  deriving DecidableEq, Repr, Inhabited

/-- What an agent asks for: the agent and request fields of the selector with the operands beside them (R98, R101), or a
line of an operation sequence, which also names the operation it expects (R107). -/
inductive Request where
  | raw (ag : BitVec 3) (rq : BitVec 4) (ops : Operands)
  | line (i : Instr)
  deriving DecidableEq, Repr, Inhabited

end Sys2Proof.Machine

namespace Sys2Proof.Config

/-- The order of the bits of a byte on the serial line (R62): which bit goes out `k`th. DESIGN CHOICE (log entry 9): the
spec leaves BUS_BIT_ORDER without a domain; here it is any order that sends each of the eight bits once, the same for
every byte. -/
abbrev BitOrder := Equiv.Perm (Fin 8)

/-- BUS_RATE (R10, R218): timing only. -/
opaque busRate : Nat

/-- PULSE_WIDTH (R10, R225): timing only. -/
opaque pulseWidth : Nat

/-- BUS_BIT_ORDER (R10, R62): outside the core. -/
opaque busBitOrder : BitOrder

/-- Free value: the parameters of the platform at power-on reset (R10, R36, log entry 8). -/
opaque platform : Machine.Platform

/-- Free value: the byte of BM at an address right after the ATTACH of instance `unit` that drew number `k` (R40, I5). -/
opaque bitmapAtAttach (unit k addr : Nat) : Byte

/-- Free value: the request an agent of instance `unit` makes when none was placed in the inbox (R249, I18). -/
opaque freeRequest (unit k : Nat) : Machine.Request

/-- Free value: what the panel of instance `unit` received of the `k`th event of the trace, a failed transfer (R219,
I3). -/
opaque failedTransferBytes (unit k : Nat) : List Byte

end Sys2Proof.Config
end

