-- ==== Sys2Proof/WellFormed.lean ====
section
/-! DEFINITION. The one operand bound the spec puts on an operation: WRITE's address lies inside the Linear Bitmap (R101,
R215). Every other operand is any value of its type. -/

namespace Sys2Proof

/-- `i` is well formed for a Linear Bitmap of `bb` bytes. -/
def Instr.wellFormed (bb : Nat) : Instr → Bool
  | .attach _ _ _ _ => true
  | .detach => true
  | .write addr _ => decide (addr < bb)
  | .start => true
  | .compose => true
  | .sendIssue => true
  | .sendDone => true
  | .expire => true
  | .advance => true
  | .drain => true
  | .busOk => true
  | .busErr => true

end Sys2Proof
end

