-- ==== Sys2Proof/Decode.lean ====
section
/-! DEFINITION. The operation map (R98 to R104): the twelve match and mask rows, the decoder that picks the row a selector
matches, and the encoder written from the same rows. -/

namespace Sys2Proof

/-- Why a selector is no operation (R104). -/
inductive Reject where
  /-- AG is 5, 6 or 7. -/
  | reservedAgent
  /-- The agent has no request of this code (R99). -/
  | reservedRequest
  /-- ST is 5, 6 or 7. -/
  | reservedState
  /-- BSY and DON are both 1. -/
  | busyAndDone
  /-- The WORK agent waits: for the bus, for the timer, or for an ATTACH (R104, R181). -/
  | workWaits
  /-- An external agent asks for an operation whose guard fails (R104). -/
  | guardFails
  deriving DecidableEq, Repr

/-- The word a row requires where its mask is 1 (R100). -/
def matchWord : Instr → Selector
  | .attach _ _ _ _ => 0x1800
  | .detach => 0x2808
  | .write _ _ => 0x1608
  | .start => 0x0008
  | .compose => 0x0009
  | .sendIssue => 0x000A
  | .sendDone => 0x004A
  | .expire => 0x128B
  | .advance => 0x010C
  | .drain => 0x0018
  | .busOk => 0x142A
  | .busErr => 0x242A

/-- The bits a row looks at (R100); the others are "don't care". -/
def maskWord : Instr → Selector
  | .attach _ _ _ _ => 0xFFFF
  | .detach => 0xFE18
  | .write _ _ => 0xFE08
  | .start => 0xFE1F
  | .compose => 0xFE1F
  | .sendIssue => 0xFE7F
  | .sendDone => 0xFE7F
  | .expire => 0xFE9F
  | .advance => 0xFF1F
  | .drain => 0xFE38
  | .busOk => 0xFE6F
  | .busErr => 0xFE6F

/-- The row of `i` matches the selector (R103). -/
def rowMatches (w : Selector) (i : Instr) : Bool := w &&& maskWord i == matchWord i

/-- The twelve operations in the table's order, with the operands a request carries. -/
def operations (o : Operands) : List Instr :=
  [.attach o.cfgWidth o.cfgHeight o.cfgPanelCount o.alloc, .detach, .write o.addr o.data, .start, .compose, .sendIssue,
    .sendDone, .expire, .advance, .drain, .busOk, .busErr]

/-- The agent field AG (R98). -/
def agentField (w : Selector) : BitVec 3 := w.extractLsb' 9 3

/-- The request field RQ (R98). -/
def requestField (w : Selector) : BitVec 4 := w.extractLsb' 12 4

/-- The request codes R99 gives an agent. -/
def requestKnown (ag : BitVec 3) (rq : BitVec 4) : Bool :=
  (ag == 0 && rq == 0) || (ag == 1 && rq == 1) || (ag == 2 && (rq == 1 || rq == 2)) || (ag == 3 && rq == 1)
    || (ag == 4 && (rq == 1 || rq == 2))

/-- The name of the rejection of a selector that matches no row (R104). -/
def rejectionOf (w : Selector) : Reject :=
  if decide (5 ≤ (agentField w).toNat) then .reservedAgent
  else if !requestKnown (agentField w) (requestField w) then .reservedRequest
  else if decide (5 ≤ (w.extractLsb' 0 3).toNat) then .reservedState
  else if w.getLsbD 5 && w.getLsbD 6 then .busyAndDone
  else if agentField w == 0 then .workWaits
  else .guardFails

/-- Decoding (R103): the operation whose row the selector matches, with the request's operands; a rejection by name
where no row matches. -/
def decode (w : Selector) (o : Operands) : Except Reject Instr :=
  match (operations o).find? (rowMatches w) with
  | some i => .ok i
  | none => .error (rejectionOf w)

/-- Operand words of zeros: every configuration value absent, the allocator's draw `ok`, address and byte 0. -/
def Operands.zero : Operands :=
  { cfgWidth := none, cfgHeight := none, cfgPanelCount := none, alloc := .ok, addr := 0, data := 0 }

/-- The operands a request for `i` carries (R101). -/
def operandsOf : Instr → Operands
  | .attach w h n a => { Operands.zero with cfgWidth := w, cfgHeight := h, cfgPanelCount := n, alloc := a }
  | .write a d => { Operands.zero with addr := a, data := d }
  | .detach => Operands.zero
  | .start => Operands.zero
  | .compose => Operands.zero
  | .sendIssue => Operands.zero
  | .sendDone => Operands.zero
  | .expire => Operands.zero
  | .advance => Operands.zero
  | .drain => Operands.zero
  | .busOk => Operands.zero
  | .busErr => Operands.zero

/-- A selector of the row of `i` whose "don't care" bits are those of `fill` (R100). -/
def encodeWith (fill : Selector) (i : Instr) : Selector := (fill &&& ~~~ maskWord i) ||| matchWord i

/-- The encoding of `i`: its row's word with every "don't care" bit 0, and its operands. -/
def encode (i : Instr) : Selector × Operands := (encodeWith 0 i, operandsOf i)

/-- What the decoder reads from the selector numbered as spec/opcode_table.json numbers it, operands zero. -/
def decodeTableWord (nbits w : Nat) : Option Instr :=
  if nbits = 16 ∧ w < 65536 then
    match decode (BitVec.ofNat 16 w) Operands.zero with
    | .ok i => some i
    | .error _ => none
  else none

end Sys2Proof
end

