-- ==== Sys2Proof/Machine/State.lean ====
section
/-! DEFINITION. The state of one instance as plain data (R20 to R50), the reasons a step can stop (R246), and the state
after power-on reset (R48, R270). -/

namespace Sys2Proof.Machine

/-- ST, a 3-bit code (R21, R97). Codes 5, 6 and 7 are reserved and unreachable (R38). -/
inductive SchedState where
  | idle
  | compose
  | send
  | pulseWait
  | advance
  | reserved5
  | reserved6
  | reserved7
  deriving DecidableEq, Repr, Inhabited

/-- GEOM, the geometry registers (R31): all ten, as ATTACH writes them. -/
structure Geometry where
  /-- W, width in pixels. -/
  w : Nat
  /-- H, height in pixels. -/
  h : Nat
  /-- N, panel_count. -/
  n : Nat
  /-- R, regs_per_col. -/
  r : Nat
  /-- PC, panel_cols. -/
  pc : Nat
  /-- CPG, cols_per_group. -/
  cpg : Nat
  /-- PBB, panel_block_bytes. -/
  pbb : Nat
  /-- GB, group_bytes. -/
  gb : Nat
  /-- FB, frame_bytes. -/
  fb : Nat
  /-- BB, bitmap bytes. -/
  bb : Nat
  deriving DecidableEq, Repr, Inhabited

/-- One of the three byte memories (R60): its size, and the bytes that hold a value, in rising order of address. A byte
that is not listed holds no value (R41, R42, I7). -/
structure Memory where
  size : Nat
  cells : List Host.Cell
  deriving DecidableEq, Repr, Inhabited

/-- The three memories of R60, to name one in a fault. -/
inductive MemoryName where
  | bm
  | ss
  | wf
  deriving DecidableEq, Repr

/-- The result codes of ATTACH (R240): 0 OK, 1 E_CONFIG, 2 E_NOMEM. -/
inductive AttachResult where
  | ok
  | eConfig
  | eNomem
  deriving DecidableEq, Repr

/-- The events of TRACE (R47). A level or a status is a Bool: `true` is 1 (high, failure). -/
inductive Event where
  | attached (result : AttachResult)
  | warnLineCanSleep
  | snapshot (bytes : List Byte)
  | csSet (level : Bool)
  | xfer (g : BitVec 2) (bytes : List Byte)
  | xferEnd (g : BitVec 2) (status : Bool)
  | logXferFail (g : BitVec 2)
  | timerArm (g : BitVec 2)
  | timerExpire (g : BitVec 2)
  | timerCancel
  | detached
  deriving DecidableEq, Repr

/-- What the step takes as arguments beside the block's own state (R10, R36): the platform's parameters, the requests of
the agents, and the names of the next free values. None of it is state of the block. DESIGN CHOICE (log entries 1, 8, 10,
23): they travel with `State`, because a step has no other argument. -/
structure Inputs where
  /-- The platform's parameters, which no step writes (R10, R272). -/
  platform : Platform
  /-- The requests the agents make next, oldest first. -/
  inbox : List Request
  /-- How many free values have been drawn. -/
  draws : Nat
  /-- Which instance this is, so that the free values of two instances are not the same ones (R227, log entry 23). No
  step writes it. -/
  unit : Nat
  deriving DecidableEq, Repr, Inhabited

/-- The state of one instance: the fifteen fields of R20, and the inputs that travel with it. -/
structure State extends Inputs where
  /-- ATT, attached (R23). -/
  att : Bool
  /-- ST, scheduler state (R21). -/
  st : SchedState
  /-- CG, current_group (R22). -/
  cg : BitVec 2
  /-- STP, stop requested (R24). -/
  stp : Bool
  /-- BSY, bus transfer outstanding (R25). -/
  bsy : Bool
  /-- DON, bus completion posted (R26). -/
  don : Bool
  /-- XST, status of the last bus completion, `true` is failure (R27). -/
  xst : Bool
  /-- TAR, pulse timer armed (R28). -/
  tar : Bool
  /-- WAK, wake pending (R29). -/
  wak : Bool
  /-- CS, chip-select level, `true` is high (R30). -/
  cs : Bool
  /-- GEOM, or no value (R31). -/
  geom : Option Geometry
  /-- BM, Linear Bitmap, or not allocated (R40, R43). -/
  bm : Option Memory
  /-- SS, Shadow Snapshot, or not allocated (R41, R43). -/
  ss : Option Memory
  /-- WF, Wire Frame, or not allocated (R42, R43). -/
  wf : Option Memory
  /-- TRACE, oldest event first (R47). -/
  trace : List Event
  deriving DecidableEq, Repr

/-- The faults of R246. Each is safe: the machine stops where the spec gives no meaning. -/
inductive Fault where
  /-- Raised by every operation, and by a request, in a state that violates R37 (R38). Safe. -/
  | stuckState
  /-- Raised by an operation that reads GEOM while it holds no value (R31, I17). Safe. -/
  | geometryHasNoValue
  /-- Raised by an operation that reaches a memory that is not allocated (R43, R246). Safe. -/
  | notAllocated (m : MemoryName)
  /-- Raised by an access outside a memory (R16). Safe. -/
  | addressOutOfRange (m : MemoryName) (addr : Nat)
  /-- Raised by a read of a byte of SS or WF that no COMPOSE has written (R41, R42, I7). Safe. -/
  | unspecifiedByte (m : MemoryName) (addr : Nat)
  deriving DecidableEq, Repr

/-- The refusals of R246: the operation has no step in this state. -/
inductive Refusal where
  /-- An instruction without a meaning yet, raised by exec's arm only. Safe. -/
  | notModelled (mnemonic : String)
  /-- Raised by an operation whose guard fails (R104). Safe. -/
  | guardFails (mnemonic : String)
  /-- Raised by WRITE at an address outside the Linear Bitmap (R216). Safe. -/
  | writeOutOfRange (addr : Nat)
  deriving DecidableEq, Repr

/-- What a step answers. -/
abbrev Result := Host.Outcome State Fault Refusal

/-- Power-on reset (R48, R270). The platform is free (log entry 8). -/
def State.reset : State :=
  { att := false, st := .idle, cg := 0, stp := false, bsy := false, don := false, xst := false, tar := false,
    wak := false, cs := true, geom := none, bm := none, ss := none, wf := none, trace := [],
    platform := Config.platform, inbox := [], draws := 0, unit := 0 }

end Sys2Proof.Machine
end

