-- ==== Sys2Proof/Machine/Geometry.lean ====
section
/-! DEFINITION. The geometry derivation and the checks ATTACH applies (40_geometry.md, R120 to R132). -/

namespace Sys2Proof.Machine

/-- GROUPS, fixed (R122). -/
def groups : Nat := 4

/-- The acceptance of the three inputs (R123). -/
abbrev Valid (w h n : Nat) : Prop :=
  (1 ≤ w ∧ 1 ≤ h ∧ 1 ≤ n) ∧ w % n = 0 ∧ (w / n) % 4 = 0 ∧ ((w / n) / 4) % 2 = 0

/-- The derived constants (R121). -/
def geometryOf (w h n : Nat) : Geometry :=
  let r := (h + 7) / 8
  let pc := w / n
  let cpg := pc / groups
  let pbb := cpg * r + 1
  let gb := n * pbb
  { w := w, h := h, n := n, r := r, pc := pc, cpg := cpg, pbb := pbb, gb := gb, fb := groups * gb, bb := w * h / 8 }

/-- A size exceeds a capacity; `none` bounds nothing. -/
def exceeds (size : Nat) : Option Nat → Bool
  | none => false
  | some cap => decide (cap < size)

/-- The capacity checks on a derived geometry, the bus before the memory (R128, R130, R131). -/
def withinCapacity (p : Platform) (g : Geometry) : Except AttachResult Geometry :=
  if exceeds g.gb p.busMaxXfer then .error .eConfig
  else if exceeds g.bb p.maxBitmapBytes || exceeds g.fb p.maxFrameBytes then .error .eNomem
  else .ok g

/-- Derive (R128): the geometry, or the code ATTACH reports. -/
def derive (p : Platform) (w h n : Nat) : Except AttachResult Geometry :=
  if Valid w h n then withinCapacity p (geometryOf w h n) else .error .eConfig

/-- A geometry that ATTACH can have written: accepted inputs and the constants derived from them. -/
abbrev Geometry.Accepted (g : Geometry) : Prop :=
  Valid g.w g.h g.n ∧ g = geometryOf g.w g.h g.n

end Sys2Proof.Machine
end

