-- ==== Sys2Proof/Machine/Operands.lean ====
section
/-! DEFINITION. The operand forms: the configuration defaults (R211) and the compositor's addresses, the only computed
operands of the block (R102, R141). -/

namespace Sys2Proof.Machine

/-- A configuration property: its value where present (a present 0 too), else its default (R211, D3). -/
def configured (v : Option Nat) (byDefault : Nat) : Nat := v.getD byDefault

/-- Default of cfg_width (R211). -/
def defaultWidth : Nat := 128

/-- Default of cfg_height (R211). -/
def defaultHeight : Nat := 19

/-- Default of cfg_panel_count (R211). -/
def defaultPanelCount : Nat := 4

/-- `x_sample`: the horizontal mirror, in sample space only (R141, R153). -/
def xSample (g : Geometry) (x : Nat) : Nat := g.w - 1 - x

/-- `idx`: the linear index sampled in SS (R141). -/
def sampleIndex (g : Geometry) (x y : Nat) : Nat := y * g.w + xSample g x

/-- `y_rev`: the vertical flip (R141). -/
def yRev (g : Geometry) (y : Nat) : Nat := g.h - 1 - y

/-- `reg`: the vertical register (R141). -/
def vertReg (g : Geometry) (y : Nat) : Nat := yRev g y / 8

/-- `bit_pos`: MSB-first within the vertical byte (R64, R141). -/
def bitPos (g : Geometry) (y : Nat) : Nat := 7 - yRev g y % 8

/-- `panel`, from the unmirrored x (R141). -/
def panelOf (g : Geometry) (x : Nat) : Nat := x / g.pc

/-- `grp`: modulo the group count (R141). -/
def groupOf (x : Nat) : Nat := x % groups

/-- `col_in_group`: adjacent column pairs swapped (R141). -/
def colInGroup (g : Geometry) (x : Nat) : Nat := ((x % g.pc) / groups) ^^^ 1

/-- `base` and `hdr_addr`: the block's first byte (R69, R141). -/
def blockBase (g : Geometry) (x : Nat) : Nat := groupOf x * g.gb + panelOf g x * g.pbb

/-- `data_addr` (R141). -/
def dataAddr (g : Geometry) (x y : Nat) : Nat := blockBase g x + 1 + colInGroup g x * g.r + vertReg g y

/-- `mask` (R141). -/
def dataMask (g : Geometry) (y : Nat) : Byte := 1#8 <<< bitPos g y

end Sys2Proof.Machine
end

