-- ==== Sys2Proof/Machine/Flags.lean ====
section
/-! DEFINITION. The status fields: the clauses every reachable state satisfies (R37), the guards of the operations
(R100), and the selector formed from the fields (R98). -/

namespace Sys2Proof.Machine

/-- R37 clause 1. -/
abbrev State.DetachedIsIdle (s : State) : Prop :=
  s.att = false → s.st = .idle ∧ s.cg = 0 ∧ s.stp = false ∧ s.bsy = false ∧ s.don = false ∧ s.tar = false ∧
    s.wak = false ∧ s.cs = true

/-- R37 clause 2. -/
abbrev State.TransferIsInSend (s : State) : Prop :=
  (s.bsy = true ∨ s.don = true → s.st = .send) ∧ ¬ (s.bsy = true ∧ s.don = true)

/-- R37 clause 3. -/
abbrev State.TimerIsInPulse (s : State) : Prop :=
  (s.tar = true → s.st = .pulseWait ∧ s.stp = false) ∧
    (s.st = .pulseWait → s.stp = false → s.att = true → s.tar = true ∧ s.cs = false)

/-- R37 clause 4. -/
abbrev State.WakeIsInAdvance (s : State) : Prop :=
  (s.wak = true → s.st = .advance) ∧ (s.st = .advance → s.stp = false → s.wak = true)

/-- R37 clause 5. -/
abbrev State.LowIsInPulse (s : State) : Prop := s.cs = false → s.st = .pulseWait

/-- R37 clause 6. -/
abbrev State.CodeIsNamed (s : State) : Prop := s.st ≠ .reserved5 ∧ s.st ≠ .reserved6 ∧ s.st ≠ .reserved7

/-- R37, all six clauses. A state without it is stuck (R38). -/
abbrev State.Coherent (s : State) : Prop :=
  s.DetachedIsIdle ∧ s.TransferIsInSend ∧ s.TimerIsInPulse ∧ s.WakeIsInAdvance ∧ s.LowIsInPulse ∧ s.CodeIsNamed

/-- Guard of ATTACH (R100, R212). -/
abbrev GuardAttach (s : State) : Prop :=
  s.att = false ∧ s.st = .idle ∧ s.stp = false ∧ s.bsy = false ∧ s.don = false ∧ s.tar = false ∧ s.wak = false

/-- Guard of DETACH (R214). -/
abbrev GuardDetach (s : State) : Prop := s.att = true ∧ s.stp = false

/-- Guard of WRITE, but for its operand (R215). -/
abbrev GuardWrite (s : State) : Prop := s.att = true

/-- Guard of START (R174). -/
abbrev GuardStart (s : State) : Prop := s.att = true ∧ s.stp = false ∧ s.st = .idle

/-- Guard of COMPOSE (R175). -/
abbrev GuardCompose (s : State) : Prop := s.att = true ∧ s.stp = false ∧ s.st = .compose

/-- Guard of SEND.ISSUE (R176). -/
abbrev GuardSendIssue (s : State) : Prop :=
  s.att = true ∧ s.stp = false ∧ s.st = .send ∧ s.bsy = false ∧ s.don = false

/-- Guard of SEND.DONE (R177). -/
abbrev GuardSendDone (s : State) : Prop :=
  s.att = true ∧ s.stp = false ∧ s.st = .send ∧ s.bsy = false ∧ s.don = true

/-- Guard of EXPIRE (R178). -/
abbrev GuardExpire (s : State) : Prop := s.att = true ∧ s.stp = false ∧ s.st = .pulseWait ∧ s.tar = true

/-- Guard of ADVANCE (R179). -/
abbrev GuardAdvance (s : State) : Prop := s.att = true ∧ s.stp = false ∧ s.st = .advance ∧ s.wak = true

/-- Guard of DRAIN (R180). -/
abbrev GuardDrain (s : State) : Prop := s.att = true ∧ s.stp = true ∧ s.bsy = false

/-- Guard of BUS.OK (R221). -/
abbrev GuardBusOk (s : State) : Prop := s.att = true ∧ s.st = .send ∧ s.bsy = true ∧ s.don = false

/-- Guard of BUS.ERR (R222). -/
abbrev GuardBusErr (s : State) : Prop := s.att = true ∧ s.st = .send ∧ s.bsy = true ∧ s.don = false

/-- The guard of each operation, operands apart (R100). -/
def guardOf (i : Instr) (s : State) : Prop :=
  match i with
  | .attach _ _ _ _ => GuardAttach s
  | .detach => GuardDetach s
  | .write _ _ => GuardWrite s
  | .start => GuardStart s
  | .compose => GuardCompose s
  | .sendIssue => GuardSendIssue s
  | .sendDone => GuardSendDone s
  | .expire => GuardExpire s
  | .advance => GuardAdvance s
  | .drain => GuardDrain s
  | .busOk => GuardBusOk s
  | .busErr => GuardBusErr s

/-- The 3-bit code of a scheduler state (R97). -/
def schedCode : SchedState → BitVec 3
  | .idle => 0
  | .compose => 1
  | .send => 2
  | .pulseWait => 3
  | .advance => 4
  | .reserved5 => 5
  | .reserved6 => 6
  | .reserved7 => 7

/-- The scheduler state of a 3-bit code (R97). -/
def schedOfCode (c : BitVec 3) : SchedState :=
  match c.toNat with
  | 0 => .idle
  | 1 => .compose
  | 2 => .send
  | 3 => .pulseWait
  | 4 => .advance
  | 5 => .reserved5
  | 6 => .reserved6
  | _ => .reserved7

/-- The selector word of R98: ST in bits 2..0, then ATT, STP, BSY, DON, TAR, WAK, AG in bits 11..9, RQ in bits 15..12. -/
def selectorOf (s : State) (ag : BitVec 3) (rq : BitVec 4) : Selector :=
  rq ++ ag ++ BitVec.ofBool s.wak ++ BitVec.ofBool s.tar ++ BitVec.ofBool s.don ++ BitVec.ofBool s.bsy ++
    BitVec.ofBool s.stp ++ BitVec.ofBool s.att ++ schedCode s.st

end Sys2Proof.Machine
end

