-- ==== Sys2Proof/Machine/Ops.lean ====
section
/-! DEFINITION. The shared operations: events and the chip-select line (R15, R30, R47), byte access to the memories (R14,
R16, R60 to R68), and the guard every operation passes first (R38, R104). The block has no trap entry and no trap return
(R250, R251), so there is no operation for taking an exception. -/

namespace Sys2Proof.Machine

/-- Append an event to TRACE (R15, R47). -/
def State.emit (s : State) (e : Event) : State := { s with trace := s.trace ++ [e] }

/-- Write CS and emit CS_SET (R30, R47). -/
def State.driveCs (s : State) (level : Bool) : State := ({ s with cs := level }).emit (.csSet level)

/-- What a byte that is not listed reads as: no value (I7, log entry 7). -/
def Memory.unlisted : Option Byte := none

/-- The value listed at an address. -/
def lookupCell (a : Nat) : List Host.Cell → Option Byte
  | [] => Memory.unlisted
  | (k, v) :: rest => if k = a then some v else lookupCell a rest

/-- List a value at an address, in rising order. -/
def insertCell (a : Nat) (v : Byte) : List Host.Cell → List Host.Cell
  | [] => [(a, v)]
  | (k, u) :: rest =>
    if k < a then (k, u) :: insertCell a v rest
    else if k = a then (a, v) :: rest
    else (a, v) :: (k, u) :: rest

/-- Number bytes with the addresses from `a` on. -/
def numberFrom (a : Nat) : List Byte → List Host.Cell
  | [] => []
  | b :: rest => (a, b) :: numberFrom (a + 1) rest

/-- The addresses rise strictly. -/
def risingCells : List Host.Cell → Bool
  | [] => true
  | [_] => true
  | (a, _) :: (b, v) :: rest => decide (a < b) && risingCells ((b, v) :: rest)

/-- The canonical form: addresses strictly rising and inside the memory. -/
def Memory.wf (m : Memory) : Bool := risingCells m.cells && m.cells.all fun c => decide (c.1 < m.size)

/-- Every byte of the memory holds a value. -/
def Memory.full (m : Memory) : Bool := m.cells.map Prod.fst == List.range m.size

/-- MemRead of one byte (R14, R16). -/
def Memory.read (name : MemoryName) (m : Memory) (a : Nat) : Except Fault Byte :=
  if a < m.size then
    match lookupCell a m.cells with
    | some b => .ok b
    | none => .error (.unspecifiedByte name a)
  else .error (.addressOutOfRange name a)

/-- MemWrite of one byte (R14, R16). -/
def Memory.write (name : MemoryName) (m : Memory) (a : Nat) (v : Byte) : Except Fault Memory :=
  if a < m.size then .ok { m with cells := insertCell a v m.cells } else .error (.addressOutOfRange name a)

/-- MemRead of `n` bytes in increasing address order (R14). -/
def Memory.readMany (name : MemoryName) (m : Memory) (a : Nat) : Nat → Except Fault (List Byte)
  | 0 => .ok []
  | n + 1 =>
    match m.read name a with
    | .error f => .error f
    | .ok b =>
      match m.readMany name (a + 1) n with
      | .error f => .error f
      | .ok bs => .ok (b :: bs)

/-- MemWrite of the whole memory, from address 0 to its last byte (R66). -/
def Memory.writeAll (name : MemoryName) (m : Memory) (bs : List Byte) : Except Fault Memory :=
  if bs.length = m.size then .ok { m with cells := numberFrom 0 bs } else .error (.addressOutOfRange name m.size)

/-- A fresh buffer of `n` bytes with unspecified contents (R41, R42). -/
def Memory.unspecified (n : Nat) : Memory := { size := n, cells := [] }

/-- A memory of `n` zero bytes. -/
def Memory.zeros (n : Nat) : Memory := { size := n, cells := numberFrom 0 (List.replicate n 0#8) }

/-- The Linear Bitmap of an instance right after the ATTACH that drew number `k`: any bytes (R40, I5). -/
def Memory.arbitrary (unit k n : Nat) : Memory :=
  { size := n, cells := numberFrom 0 ((List.range n).map (Config.bitmapAtAttach unit k)) }

/-- GEOM, faulting where it holds no value (R31). -/
def State.needGeom (s : State) : Except Fault Geometry :=
  match s.geom with
  | some g => .ok g
  | none => .error .geometryHasNoValue

/-- A memory, faulting where it is not allocated (R43, R246). -/
def needMemory (name : MemoryName) : Option Memory → Except Fault Memory
  | some m => .ok m
  | none => .error (.notAllocated name)

/-- `for v in 0 .. n-1` (R17): the body in rising order of `v`, stopping at its first fault. -/
def forRange {α : Type} (n : Nat) (body : Nat → α → Except Fault α) (start : α) : Except Fault α :=
  match n with
  | 0 => .ok start
  | k + 1 =>
    match forRange k body start with
    | .error f => .error f
    | .ok a => body k a

/-- The outcome of a body that can only fault. -/
def settle : Except Fault State → Result
  | .ok s => .next s
  | .error f => .fault f

/-- One operation's step (R104, R246): stuck where R37 fails, refused where the guard fails, else the body. -/
def guarded (guard : Prop) [Decidable guard] (mnemonic : String) (s : State) (body : Result) : Result :=
  if s.Coherent then
    if guard then body else .refused (.guardFails mnemonic)
  else .fault .stuckState

end Sys2Proof.Machine
end

