-- ==== Sys2Proof/Machine/Compositor.lean ====
section
/-! DEFINITION. The pixel compositor (41_compositor.md): per pixel (R142 to R145), in closed form (R147), and its inverse
(R151). -/

namespace Sys2Proof.Machine

/-- The pixel at a linear index, weight 2^(idx & 7) within its byte (R63, R91). -/
def readPixel (name : MemoryName) (m : Memory) (idx : Nat) : Except Fault Bool :=
  match m.read name (idx >>> 3) with
  | .error f => .error f
  | .ok b => .ok (b.getLsbD (idx &&& 7))

/-- The writes of one lit coordinate: the block's header, then the data bit (R142 to R144). -/
def lightPixel (g : Geometry) (x y : Nat) (wf : Memory) : Except Fault Memory :=
  match wf.write .wf (blockBase g x) (BitVec.ofNat 8 (groupOf x)) with
  | .error f => .error f
  | .ok wf1 =>
    match wf1.read .wf (dataAddr g x y) with
    | .error f => .error f
    | .ok old => wf1.write .wf (dataAddr g x y) (old ||| dataMask g y)

/-- PIXEL(x, y) (R142). -/
def pixel (g : Geometry) (ss : Memory) (x y : Nat) (wf : Memory) : Except Fault Memory :=
  match readPixel .ss ss (sampleIndex g x y) with
  | .error f => .error f
  | .ok lit => if lit then lightPixel g x y wf else .ok wf

/-- BUILD (R145): PIXEL at every display coordinate, row-major. -/
def build (g : Geometry) (ss wf : Memory) : Except Fault Memory :=
  forRange g.h (fun y row => forRange g.w (fun x m => pixel g ss x y m) row) wf

/-- The pixel at a linear index, unlit where the byte holds no value: the view the closed form is written over. -/
def pixelAt (m : Memory) (idx : Nat) : Bool :=
  match lookupCell (idx >>> 3) m.cells with
  | some b => b.getLsbD (idx &&& 7)
  | none => false

/-- LitBlock(grp, p) of R147. -/
def litBlock (g : Geometry) (ss : Memory) (grp p : Nat) : Bool :=
  (List.range g.cpg).any fun c => (List.range g.h).any fun y =>
    pixelAt ss (y * g.w + (g.w - 1 - (p * g.pc + 4 * c + grp)))

/-- The display column of data column `c` of block (grp, p) (R94, R147). -/
def displayColumn (g : Geometry) (grp p c : Nat) : Nat := p * g.pc + 4 * (c ^^^ 1) + grp

/-- Bit `b` of the data byte of register `r` in display column `x` (R94, R147). -/
def dataBit (g : Geometry) (ss : Memory) (x r b : Nat) : Bool :=
  decide (8 * r + 7 - b < g.h) && pixelAt ss ((g.h - 1 - (8 * r + 7 - b)) * g.w + (g.w - 1 - x))

/-- A byte from its eight bits, bit `b` of weight 2^b (R13). -/
def byteOfBits (bit : Nat → Bool) : Byte :=
  (List.range 8).foldl (fun acc b => if bit b then acc ||| (1#8 <<< b) else acc) 0#8

/-- Byte `k` of block (grp, p): its header, or the data byte (c, r) with `k = 1 + c*R + r` (R147). -/
def blockByte (g : Geometry) (ss : Memory) (grp p k : Nat) : Byte :=
  if k = 0 then
    if litBlock g ss grp p then BitVec.ofNat 8 grp else 0#8
  else
    byteOfBits (dataBit g ss (displayColumn g grp p ((k - 1) / g.r)) ((k - 1) % g.r))

/-- The Wire Frame byte at offset `o` in closed form (R147). -/
def wireByte (g : Geometry) (ss : Memory) (o : Nat) : Byte :=
  blockByte g ss (o / g.gb) (o % g.gb / g.pbb) (o % g.gb % g.pbb)

/-- The display coordinate carried by bit `b` of byte `k` of block (grp, p) (R151). Headers and padding bits carry
none. -/
def blockOrigin (g : Geometry) (grp p k b : Nat) : Option (Nat × Nat) :=
  if k ≠ 0 ∧ 8 * ((k - 1) % g.r) + 7 - b < g.h then
    some (displayColumn g grp p ((k - 1) / g.r), g.h - 1 - (8 * ((k - 1) % g.r) + 7 - b))
  else none

/-- The inverse mapping (R151): the display coordinate that bit `b` of Wire Frame byte `o` carries. -/
def originOf (g : Geometry) (o b : Nat) : Option (Nat × Nat) :=
  blockOrigin g (o / g.gb) (o % g.gb / g.pbb) (o % g.gb % g.pbb) b

/-- The linear index of the bitmap pixel shown at a display coordinate (R151). -/
def originIndex (g : Geometry) (o b : Nat) : Option Nat :=
  (originOf g o b).map fun xy => sampleIndex g xy.1 xy.2

end Sys2Proof.Machine
end

