-- ==== Sys2Proof/Machine/Bus.lean ====
section
/-! DEFINITION. The bus agent's completions: BUS.OK and BUS.ERR (43_interfaces.md, R218 to R222). -/

namespace Sys2Proof.Machine

/-- A completion with its status, `true` for failure (R221, R222, R243). -/
def completeTransfer (status : Bool) (s : State) : State :=
  ({ s with bsy := false, don := true, xst := status }).emit (.xferEnd s.cg status)

/-- BUS.OK (R221). -/
def execBusOk (s : State) : Result := guarded (GuardBusOk s) "BUS.OK" s (.next (completeTransfer false s))

/-- BUS.ERR (R222). -/
def execBusErr (s : State) : Result := guarded (GuardBusErr s) "BUS.ERR" s (.next (completeTransfer true s))

end Sys2Proof.Machine
end

