-- ==== Sys2Proof/Machine/Management.lean ====
section
/-! DEFINITION. Device management: ATTACH and DETACH (43_interfaces.md, R210 to R214). -/

namespace Sys2Proof.Machine

/-- A failed ATTACH: only the trace grows (R212, R241, R242). -/
def attachFailed (s : State) (r : AttachResult) : State := s.emit (.attached r)

/-- The warning of R224, where the platform's line can sleep. -/
def warnLine (s : State) : State := if s.platform.pulseLineCanSleep then s.emit .warnLineCanSleep else s

/-- The fields of a successful ATTACH (R49, R212): BM holds any bytes, SS and WF hold none yet. CS is not written. The
bytes of BM are free values named by the instance and the draw (DESIGN CHOICE, log entries 6 and 23). -/
def attachFields (s : State) (g : Geometry) : State :=
  { s with
    geom := some g
    bm := some (Memory.arbitrary s.unit s.draws g.bb)
    ss := some (Memory.unspecified g.bb)
    wf := some (Memory.unspecified g.fb)
    st := .idle, cg := 0, stp := false, bsy := false, don := false, xst := false, tar := false, wak := false
    att := true
    draws := s.draws + 1 }

/-- What ATTACH leaves (R212): a result code, or an attached instance. -/
def attachState (cfgWidth cfgHeight cfgPanelCount : Option Nat) (alloc : Alloc) (s : State) : State :=
  match derive s.platform (configured cfgWidth defaultWidth) (configured cfgHeight defaultHeight)
      (configured cfgPanelCount defaultPanelCount) with
  | .error r => attachFailed s r
  | .ok g =>
    match alloc with
    | .fail => attachFailed s .eNomem
    | .ok => (warnLine (attachFields s g)).emit (.attached .ok)

/-- ATTACH (R212). -/
def execAttach (cfgWidth cfgHeight cfgPanelCount : Option Nat) (alloc : Alloc) (s : State) : Result :=
  guarded (GuardAttach s) "ATTACH" s (.next (attachState cfgWidth cfgHeight cfgPanelCount alloc s))

/-- What DETACH leaves (R214): an armed timer is cancelled and the cut pulse ends. -/
def detachState (s : State) : State :=
  if s.tar then (({ s with stp := true, tar := false }).emit .timerCancel).driveCs true
  else { s with stp := true }

/-- DETACH (R214). -/
def execDetach (s : State) : Result := guarded (GuardDetach s) "DETACH" s (.next (detachState s))

end Sys2Proof.Machine
end

