-- ==== Sys2Proof/Machine/Scheduler.lean ====
section
/-! DEFINITION. The transmission scheduler: START, COMPOSE, SEND.ISSUE, SEND.DONE, EXPIRE, ADVANCE and DRAIN
(42_scheduler.md, R170 to R190). -/

namespace Sys2Proof.Machine

/-- START (R174). -/
def execStart (s : State) : Result := guarded (GuardStart s) "START" s (.next { s with st := .compose })

/-- Phase 1 of COMPOSE, under the Frame Store lock (R66): SS becomes BM's bytes, WF is zeroed. -/
def snapshotMemories (g : Geometry) (bm ss wf : Memory) : Except Fault (List Byte × Memory × Memory) :=
  match bm.readMany .bm 0 g.bb with
  | .error f => .error f
  | .ok bytes =>
    match ss.writeAll .ss bytes with
    | .error f => .error f
    | .ok ss' =>
      match wf.writeAll .wf (List.replicate g.fb 0#8) with
      | .error f => .error f
      | .ok wf' => .ok (bytes, ss', wf')

/-- Both phases of COMPOSE over its memories (R175): the bytes of the snapshot, SS, and the built WF. -/
def composeMemories (g : Geometry) (bm ss wf : Memory) : Except Fault (List Byte × Memory × Memory) :=
  match snapshotMemories g bm ss wf with
  | .error f => .error f
  | .ok (bytes, ss', wf') =>
    match build g ss' wf' with
    | .error f => .error f
    | .ok built => .ok (bytes, ss', built)

/-- The fields COMPOSE writes, once its memories are computed (R175). -/
def composeFields (s : State) (bytes : List Byte) (ss wf : Memory) : State :=
  { (s.emit (.snapshot bytes)) with ss := some ss, wf := some wf, cg := 0, st := .send }

/-- GEOM and the three memories, each faulting where it has no value (R31, R43). -/
def needInstance (s : State) : Except Fault (Geometry × Memory × Memory × Memory) :=
  match s.needGeom with
  | .error f => .error f
  | .ok g =>
    match needMemory .bm s.bm with
    | .error f => .error f
    | .ok bm =>
      match needMemory .ss s.ss with
      | .error f => .error f
      | .ok ss =>
        match needMemory .wf s.wf with
        | .error f => .error f
        | .ok wf => .ok (g, bm, ss, wf)

/-- What COMPOSE leaves (R175). -/
def composeState (s : State) : Except Fault State :=
  match needInstance s with
  | .error f => .error f
  | .ok (g, bm, ss, wf) =>
    match composeMemories g bm ss wf with
    | .error f => .error f
    | .ok (bytes, ss', wf') => .ok (composeFields s bytes ss' wf')

/-- COMPOSE (R175). -/
def execCompose (s : State) : Result := guarded (GuardCompose s) "COMPOSE" s (settle (composeState s))

/-- The group slice of the Wire Frame that SEND.ISSUE transfers (R96, R176). -/
def groupSlice (g : Geometry) (cg : BitVec 2) (wf : Memory) : Except Fault (List Byte) :=
  wf.readMany .wf (cg.toNat * g.gb) g.gb

/-- The fields and events of SEND.ISSUE, once the slice is read (R176). -/
def sendIssueFields (s : State) (bytes : List Byte) : State :=
  { ((s.driveCs true).emit (.xfer s.cg bytes)) with bsy := true }

/-- What SEND.ISSUE leaves (R176). -/
def sendIssueState (s : State) : Except Fault State :=
  match s.needGeom with
  | .error f => .error f
  | .ok g =>
    match needMemory .wf s.wf with
    | .error f => .error f
    | .ok wf =>
      match groupSlice g s.cg wf with
      | .error f => .error f
      | .ok bytes => .ok (sendIssueFields s bytes)

/-- SEND.ISSUE (R176). -/
def execSendIssue (s : State) : Result := guarded (GuardSendIssue s) "SEND.ISSUE" s (settle (sendIssueState s))

/-- The log event of a failed transfer (R177, R243). -/
def logFailure (failed : Bool) (s : State) : State := if failed then s.emit (.logXferFail s.cg) else s

/-- What SEND.DONE leaves (R177). -/
def sendDoneState (s : State) : State :=
  { ((({ (logFailure s.xst s) with don := false, tar := true }).driveCs false).emit (.timerArm s.cg)) with
    st := .pulseWait }

/-- SEND.DONE (R177). -/
def execSendDone (s : State) : Result := guarded (GuardSendDone s) "SEND.DONE" s (.next (sendDoneState s))

/-- What EXPIRE leaves (R178). -/
def expireState (s : State) : State :=
  { ((({ s with tar := false }).emit (.timerExpire s.cg)).driveCs true) with wak := true, st := .advance }

/-- EXPIRE (R178). -/
def execExpire (s : State) : Result := guarded (GuardExpire s) "EXPIRE" s (.next (expireState s))

/-- What ADVANCE leaves (R179): the incremented group is a temporary, and 4 is never stored (R22). -/
def advanceState (s : State) : State :=
  if s.cg.toNat + 1 = groups then { s with wak := false, cg := 0, st := .compose }
  else { s with wak := false, cg := BitVec.ofNat 2 (s.cg.toNat + 1), st := .send }

/-- ADVANCE (R179). -/
def execAdvance (s : State) : Result := guarded (GuardAdvance s) "ADVANCE" s (.next (advanceState s))

/-- What DRAIN leaves (R180): a failure that completed during the detach is logged; TAR and CS are not written. -/
def drainState (s : State) : State :=
  { (logFailure (s.don && s.xst) s) with
    st := .idle, cg := 0, don := false, xst := false, wak := false
    bm := none, ss := none, wf := none, geom := none
    stp := false, att := false }.emit .detached

/-- DRAIN (R180). -/
def execDrain (s : State) : Result := guarded (GuardDrain s) "DRAIN" s (.next (drainState s))

end Sys2Proof.Machine
end

