-- ==== Sys2Proof/Machine/Writer.lean ====
section
/-! DEFINITION. The bitmap writer: WRITE (43_interfaces.md, R215, R216). -/

namespace Sys2Proof.Machine

/-- `BM[addr] <- data` (R215). -/
def writeBitmap (addr : Nat) (data : Byte) (s : State) : Except Fault State :=
  match needMemory .bm s.bm with
  | .error f => .error f
  | .ok m =>
    match m.write .bm addr data with
    | .error f => .error f
    | .ok m' => .ok { s with bm := some m' }

/-- The body of WRITE: an address outside the Linear Bitmap is refused (R216). -/
def writeBody (addr : Nat) (data : Byte) (s : State) : Result :=
  match s.needGeom with
  | .error f => .fault f
  | .ok g => if addr < g.bb then settle (writeBitmap addr data s) else .refused (.writeOutOfRange addr)

/-- WRITE (R215). -/
def execWrite (addr : Nat) (data : Byte) (s : State) : Result :=
  guarded (GuardWrite s) "WRITE" s (writeBody addr data s)

end Sys2Proof.Machine
end

