-- ==== Sys2Proof/Machine/Dispatch.lean ====
section
/-! DEFINITION. One arm per operation, each a direct call of its meaning. -/

namespace Sys2Proof.Machine

def exec (i : Instr) (s : State) : Host.Outcome State Fault Refusal :=
  match i with
  | .attach w h n a => Sys2Proof.Machine.execAttach w h n a s
  | .detach => Sys2Proof.Machine.execDetach s
  | .write a d => Sys2Proof.Machine.execWrite a d s
  | .start => Sys2Proof.Machine.execStart s
  | .compose => Sys2Proof.Machine.execCompose s
  | .sendIssue => Sys2Proof.Machine.execSendIssue s
  | .sendDone => Sys2Proof.Machine.execSendDone s
  | .expire => Sys2Proof.Machine.execExpire s
  | .advance => Sys2Proof.Machine.execAdvance s
  | .drain => Sys2Proof.Machine.execDrain s
  | .busOk => Sys2Proof.Machine.execBusOk s
  | .busErr => Sys2Proof.Machine.execBusErr s

end Sys2Proof.Machine
end

