-- ==== Sys2Proof/Machine/Fetch.lean ====
section
/-! DEFINITION. How the next request reaches the block (R20, R72, R103, R249): from the inbox, or a free value where the
inbox is empty, and how a selector word is placed as the next request (log entries 1, 11). -/

namespace Sys2Proof.Machine

/-- The agent of an operation: the AG field of its row (R98, R100). -/
def agentOf (i : Instr) : BitVec 3 := agentField (matchWord i)

/-- The request code of an operation: the RQ field of its row (R99, R100). -/
def requestCodeOf (i : Instr) : BitVec 4 := requestField (matchWord i)

/-- The next request, and the state without it. A free request is named by the instance and the draw (DESIGN CHOICE, log
entries 1 and 23). -/
def fetch (s : State) : Request × State :=
  match s.inbox with
  | r :: rest => (r, { s with inbox := rest })
  | [] => (Config.freeRequest s.unit s.draws, { s with draws := s.draws + 1 })

/-- The operation a request selects in a state (R103): none where no row matches, and none where a line of a sequence
names another operation than the row its selector matches (R107). -/
def operationOf (r : Request) (s : State) : Option Instr :=
  match r with
  | .raw ag rq ops =>
    match decode (selectorOf s ag rq) ops with
    | .ok i => some i
    | .error _ => none
  | .line i =>
    match decode (selectorOf s (agentOf i) (requestCodeOf i)) (operandsOf i) with
    | .ok j => if j = i then some i else none
    | .error _ => none

/-- The small geometry of 95_test_vectors.md, (32, 8, 4). -/
def smallGeometry : Geometry := geometryOf 32 8 4

/-- An attached instance of the small geometry with every memory byte 0, kept where `s` has its own geometry and
memories (log entry 11). -/
def withInstance (s : State) : State :=
  if s.geom.isSome && s.bm.isSome && s.ss.isSome && s.wf.isSome then s
  else
    { s with
      geom := some smallGeometry
      bm := some (Memory.zeros smallGeometry.bb)
      ss := some (Memory.zeros smallGeometry.bb)
      wf := some (Memory.zeros smallGeometry.fb) }

/-- `s` with no geometry and no memories, as while ATT = 0 (R31, R43). -/
def withoutInstance (s : State) : State := { s with geom := none, bm := none, ss := none, wf := none, cg := 0 }

/-- `s` with the fields that a selector word reads set to the word's bits (R98), CS at the level R37 gives those fields,
and an instance where the word says attached (log entry 11). -/
def withSelectorFields (s : State) (w : Selector) : State :=
  let att := w.getLsbD 3
  let stp := w.getLsbD 4
  let st := schedOfCode (w.extractLsb' 0 3)
  { (if att then withInstance s else withoutInstance s) with
    st := st, att := att, stp := stp, bsy := w.getLsbD 5, don := w.getLsbD 6, tar := w.getLsbD 7, wak := w.getLsbD 8
    cs := !(att && !stp && st == .pulseWait) }

/-- `s` with the request of a selector word first in the inbox, operands zero. -/
def withRequestFirst (s : State) (w : Selector) : State :=
  { s with inbox := .raw (agentField w) (requestField w) Operands.zero :: s.inbox }

end Sys2Proof.Machine
end

