-- ==== Sys2Proof/Machine/Present.lean ====
section
/-! DEFINITION. What a request does (R103, R104, R107, R216): the operation it selects takes its step; a refused request
and a waiting WORK agent leave the block unchanged. -/

namespace Sys2Proof.Machine

/-- The step of a selected operation. A WRITE outside the bitmap has no step and no effect (R216). -/
def takeStep (i : Instr) (s : State) : Result :=
  match exec i s with
  | .refused (.writeOutOfRange _) => .next s
  | o => o

/-- A request in a state (R38, R104): stuck where R37 fails. -/
def present (r : Request) (s : State) : Result :=
  if s.Coherent then
    match operationOf r s with
    | some i => takeStep i s
    | none => .next s
  else .fault .stuckState

end Sys2Proof.Machine
end

