-- ==== Sys2Proof/Machine/Step.lean ====
section
/-! DEFINITION. One step: the next request is fetched and presented. And a selector word placed where step fetches. -/

namespace Sys2Proof.Machine

def step (s : State) : Host.Outcome State Fault Refusal := present (fetch s).1 (fetch s).2

/-- `s` with the selector word `w` as the very next request: the state fields the word reads, and the request first in
the inbox (log entry 11). -/
def State.withFetchWord (s : State) (nbits w : Nat) : State :=
  if nbits = 16 then withRequestFirst (withSelectorFields s (BitVec.ofNat 16 w)) (BitVec.ofNat 16 w) else s

end Sys2Proof.Machine
end

