-- ==== Sys2Proof/Machine/Instances.lean ====
section
/-! DEFINITION. Several instances (R227, R256): each has its own State, and a step of one touches no other. -/

namespace Sys2Proof.Machine

/-- The instances of a system carry different names, so that no free value of one is by its name a free value of another
(DESIGN CHOICE, log entry 23). -/
abbrev UnitsDistinct (system : List State) : Prop := (system.map fun s => s.unit).Nodup

/-- Instance `k` takes a step; where there is no such instance, nothing happens. -/
def stepInstance (k : Nat) (system : List State) : Host.Outcome (List State) Fault Refusal :=
  match system[k]? with
  | none => .next system
  | some s =>
    match step s with
    | .next s' => .next (system.set k s')
    | .fault f => .fault f
    | .refused r => .refused r

end Sys2Proof.Machine
end

