-- ==== Sys2Proof/Machine/Notation.lean ====
section
/-! DEFINITION. Operation sequences and their pseudo-operations (R107, R108). -/

namespace Sys2Proof.Machine

/-- GROUP (R108). -/
def groupLines : List Instr := [.sendIssue, .busOk, .sendDone, .expire, .advance]

/-- GROUP.ERR (R108). -/
def groupErrLines : List Instr := [.sendIssue, .busErr, .sendDone, .expire, .advance]

/-- FRAME (R108). -/
def frameLines : List Instr := .compose :: (groupLines ++ groupLines ++ groupLines ++ groupLines)

/-- SETPIX x, y over a byte the writer last wrote (R108). -/
def setPix (g : Geometry) (last : Byte) (x y : Nat) : Instr :=
  .write ((y * g.w + x) >>> 3) (last ||| (1#8 <<< ((y * g.w + x) &&& 7)))

/-- CLRPIX x, y over a byte the writer last wrote (R108). -/
def clrPix (g : Geometry) (last : Byte) (x y : Nat) : Instr :=
  .write ((y * g.w + x) >>> 3) (last &&& ~~~ (1#8 <<< ((y * g.w + x) &&& 7)))

/-- The events GROUP adds for a group's burst, in order (P1). -/
def groupEvents (g : BitVec 2) (burst : List Byte) : List Event :=
  [.csSet true, .xfer g burst, .xferEnd g false, .csSet false, .timerArm g, .timerExpire g, .csSet true]

/-- Operations taken one after another, where each has its step. -/
def runOps : List Instr → State → Option State
  | [], s => some s
  | i :: rest, s =>
    match exec i s with
    | .next t => runOps rest t
    | .fault _ => none
    | .refused _ => none

/-- A sequence placed in the inbox, its lines taken one after another with no other agent between (R107, R108). -/
def State.withLines (s : State) (lines : List Instr) : State := { s with inbox := s.inbox ++ lines.map .line }

end Sys2Proof.Machine
end

