-- ==== Sys2Proof/Machine/Observe.lean ====
section
/-! DEFINITION. What the trace says of the block's boundary: the chip-select line's edges (R47), what reached the panel
(R219), the result codes (R240), and the bits on the serial line
(R62). -/

namespace Sys2Proof.Machine

/-- The result code an ATTACHED event carries (R240). -/
def resultCode : AttachResult → Nat
  | .ok => 0
  | .eConfig => 1
  | .eNomem => 2

/-- The levels of the physical line's changes, from the level it had (R47): a CS_SET of the same level changes nothing. -/
def lineEdges (level : Bool) : List Event → List Bool
  | [] => []
  | .csSet l :: rest => if l = level then lineEdges level rest else l :: lineEdges l rest
  | .attached _ :: rest => lineEdges level rest
  | .warnLineCanSleep :: rest => lineEdges level rest
  | .snapshot _ :: rest => lineEdges level rest
  | .xfer _ _ :: rest => lineEdges level rest
  | .xferEnd _ _ :: rest => lineEdges level rest
  | .logXferFail _ :: rest => lineEdges level rest
  | .timerArm _ :: rest => lineEdges level rest
  | .timerExpire _ :: rest => lineEdges level rest
  | .timerCancel :: rest => lineEdges level rest
  | .detached :: rest => lineEdges level rest

/-- The line's level after an event (R30, R47). -/
def levelAfter (level : Bool) : Event → Bool
  | .csSet l => l
  | .attached _ => level
  | .warnLineCanSleep => level
  | .snapshot _ => level
  | .xfer _ _ => level
  | .xferEnd _ _ => level
  | .logXferFail _ => level
  | .timerArm _ => level
  | .timerExpire _ => level
  | .timerCancel => level
  | .detached => level

/-- The line's level after a trace, from reset's high level (R30, R48). -/
def lineLevel (trace : List Event) : Bool := trace.foldl levelAfter true

/-- What the panel of an instance received, oldest first (R219): the bytes of each XFER that ended in success, any bytes
for one that failed. `k` counts the events, `last` is the transfer outstanding. -/
def panelReceived (unit k : Nat) (last : List Byte) : List Event → List (List Byte)
  | [] => []
  | .xfer _ bytes :: rest => panelReceived unit (k + 1) bytes rest
  | .xferEnd _ status :: rest =>
    (if status then Config.failedTransferBytes unit k else last) :: panelReceived unit (k + 1) [] rest
  | .attached _ :: rest => panelReceived unit (k + 1) last rest
  | .warnLineCanSleep :: rest => panelReceived unit (k + 1) last rest
  | .snapshot _ :: rest => panelReceived unit (k + 1) last rest
  | .csSet _ :: rest => panelReceived unit (k + 1) last rest
  | .logXferFail _ :: rest => panelReceived unit (k + 1) last rest
  | .timerArm _ :: rest => panelReceived unit (k + 1) last rest
  | .timerExpire _ :: rest => panelReceived unit (k + 1) last rest
  | .timerCancel :: rest => panelReceived unit (k + 1) last rest
  | .detached :: rest => panelReceived unit (k + 1) last rest

/-- Where a trace stands in the order of R171, R182, R183. -/
inductive Phase where
  /-- No instance is attached. -/
  | off
  /-- The next scheduled event is a SNAPSHOT. -/
  | ready
  /-- The next scheduled event is XFER of this group. -/
  | toSend (g : BitVec 2)
  /-- The transfer of this group is outstanding. -/
  | inTransfer (g : BitVec 2)
  /-- The transfer of this group has ended, `unlogged` if it failed and no LOG_XFER_FAIL has followed. -/
  | ended (g : BitVec 2) (unlogged : Bool)
  /-- The pulse of this group runs. -/
  | pulse (g : BitVec 2)
  /-- The pulse was cut by a DETACH. -/
  | cancelled
  deriving DecidableEq, Repr

/-- The phase after the pulse of a group: the next group, or the next frame's SNAPSHOT (R170, R183). -/
def phaseAfterPulse (g : BitVec 2) : Phase := if g = 3 then .ready else .toSend (g + 1)

/-- The events each phase admits, and the phase they lead to (R171, R177, R182, R183, R249). A wildcard is an event out of
order. -/
def phaseAfter (p : Phase) (e : Event) : Option Phase :=
  match p, e with
  | p, .csSet _ => some p
  | .off, .attached .ok => some .ready
  | .off, .attached .eConfig => some .off
  | .off, .attached .eNomem => some .off
  | .off, .warnLineCanSleep => some .off
  | .ready, .snapshot _ => some (.toSend 0)
  | .toSend g, .xfer g' _ => if g' = g then some (.inTransfer g) else none
  | .inTransfer g, .xferEnd g' status => if g' = g then some (.ended g status) else none
  | .ended g true, .logXferFail g' => if g' = g then some (.ended g false) else none
  | .ended g false, .timerArm g' => if g' = g then some (.pulse g) else none
  | .pulse g, .timerExpire g' => if g' = g then some (phaseAfterPulse g) else none
  | .pulse _, .timerCancel => some .cancelled
  | .ready, .detached => some .off
  | .toSend _, .detached => some .off
  | .ended _ false, .detached => some .off
  | .cancelled, .detached => some .off
  | _, _ => none

/-- One event more, where every event so far was in order. -/
def watchEvent (p : Option Phase) (e : Event) : Option Phase := p.bind fun q => phaseAfter q e

/-- The phase of a trace from reset, `none` where an event is out of order. -/
def watch (trace : List Event) : Option Phase := trace.foldl watchEvent (some .off)

/-- The phase the fields of a state stand for (R190). -/
def phaseOf (s : State) : Phase :=
  if s.att then
    match s.st with
    | .idle => .ready
    | .compose => .ready
    | .send => if s.bsy then .inTransfer s.cg else if s.don then .ended s.cg s.xst else .toSend s.cg
    | .pulseWait => if s.tar then .pulse s.cg else .cancelled
    | .advance => phaseAfterPulse s.cg
    | .reserved5 => .off
    | .reserved6 => .off
    | .reserved7 => .off
  else .off

/-- The bits of a byte in the order the serial line carries them (R62, BUS_BIT_ORDER). -/
def lineBits (order : Config.BitOrder) (b : Byte) : List Bool := (List.finRange 8).map fun k => b.getLsbD (order k)

/-- The bits one burst puts on the line, bytes in address order (R62, R96). -/
def burstBits (bytes : List Byte) : List Bool := bytes.flatMap (lineBits Config.busBitOrder)

end Sys2Proof.Machine
end

