-- ==== Sys2Proof/Machine/Runs.lean ====
section
/-! DEFINITION. Runs (R72, R283): the environment presents one request after another. When a run is over (R283), and the
fairness the spec assumes of the bus, the timer and the work agent (R284, D31). -/

namespace Sys2Proof.Machine

/-- The requests `asks`, presented one after another from `states 0`, pass through `states` (R72). A request that is
refused, or a WORK agent that waits, is a place of the run where nothing happens. -/
def IsRun (asks : Nat → Request) (states : Nat → State) : Prop :=
  ∀ k, present (asks k) (states k) = .next (states (k + 1))

/-- The `k`th request of the run takes the step of operation `i` (R103). -/
def Takes (asks : Nat → Request) (states : Nat → State) (k : Nat) (i : Instr) : Prop :=
  operationOf (asks k) (states k) = some i

/-- Every outstanding transfer eventually completes with BUS.OK or BUS.ERR (R284). -/
def FairBus (asks : Nat → Request) (states : Nat → State) : Prop :=
  ∀ k, (states k).bsy = true → ∃ j, k ≤ j ∧ (Takes asks states j .busOk ∨ Takes asks states j .busErr)

/-- Every armed timer eventually expires unless DETACH cancels it first (R284). -/
def FairTimer (asks : Nat → Request) (states : Nat → State) : Prop :=
  ∀ k, (states k).tar = true → ∃ j, k ≤ j ∧ (Takes asks states j .expire ∨ Takes asks states j .detach)

/-- The operations of the WORK agent (R172). -/
def workOperations : List Instr := [.start, .compose, .sendIssue, .sendDone, .advance, .drain]

/-- The work agent eventually takes any enabled step, or the step is no longer enabled: weak fairness (R284, D31). -/
def FairWork (asks : Nat → Request) (states : Nat → State) : Prop :=
  ∀ k, ∀ i ∈ workOperations, guardOf i (states k) →
    ∃ j, k ≤ j ∧ (Takes asks states j i ∨ ¬ guardOf i (states j))

/-- A run with the fairness of R284. The model also has the runs without it (log entry 18). -/
structure FairRun (asks : Nat → Request) (states : Nat → State) : Prop where
  isRun : IsRun asks states
  bus : FairBus asks states
  timer : FairTimer asks states
  work : FairWork asks states

/-- A finite run is over (R283): unattached, and no request that is waiting has a step. DESIGN CHOICE (log entry 24): a
waiting request that would be refused is no pending step. -/
abbrev State.RunOver (s : State) : Prop := s.att = false ∧ ∀ r ∈ s.inbox, operationOf r s = none

end Sys2Proof.Machine
end

