-- ==== Sys2Proof/Safety.lean ====
section
/-! DEFINITION. What counts as a good state, in the terms the statements use: R37 with the clause that makes it inductive
(log entry 5), the instance an attached state holds (R31, R43, R49), the canonical form of the memories, and the states
reachable from reset. -/

namespace Sys2Proof.Machine

/-- A detach has ended any pulse (R180, R214): DEDUCED, see log entry 5. -/
abbrev State.StoppedIsHigh (s : State) : Prop := s.stp = true → s.cs = true

/-- While ATT = 0 there is no geometry and no memory (R23, R43, R48). -/
abbrev State.DetachedHasNothing (s : State) : Prop :=
  s.att = false → s.geom = none ∧ s.bm = none ∧ s.ss = none ∧ s.wf = none

/-- A COMPOSE of this attachment has completed and its frame is being sent (R170). -/
abbrev State.InFrame (s : State) : Prop := s.st = .send ∨ s.st = .pulseWait ∨ s.st = .advance

/-- The geometry and the memories fit each other and the platform (R60, R121, R127, R130, R131). -/
structure InstanceFits (s : State) (g : Geometry) (bm ss wf : Memory) : Prop where
  derived : derive s.platform g.w g.h g.n = .ok g
  bmSize : bm.size = g.bb
  bmFull : bm.full = true
  ssSize : ss.size = g.bb
  ssForm : ss.wf = true
  wfSize : wf.size = g.fb
  wfForm : wf.wf = true
  ssFull : s.InFrame → ss.full = true
  wfFull : s.InFrame → wf.full = true

/-- While ATT = 1 the geometry and the three memories are there and fit (R43, R49). -/
def State.AttachedHasInstance (s : State) : Prop :=
  s.att = true → ∃ g bm ss wf, s.geom = some g ∧ s.bm = some bm ∧ s.ss = some ss ∧ s.wf = some wf ∧
    InstanceFits s g bm ss wf

/-- The invariant of the machine. -/
structure State.Inv (s : State) : Prop where
  coherent : s.Coherent
  stoppedIsHigh : s.StoppedIsHigh
  detached : s.DetachedHasNothing
  attached : s.AttachedHasInstance

/-- A memory that is allocated is in canonical form. -/
def canonicalWhereAllocated : Option Memory → Bool
  | none => true
  | some m => m.wf

/-- Every memory of the state is in canonical form. -/
def State.memoriesCanonical (s : State) : Bool :=
  canonicalWhereAllocated s.bm && canonicalWhereAllocated s.ss && canonicalWhereAllocated s.wf

/-- A state right after reset, with any inputs: any platform, any requests placed, any instance. -/
def State.AtReset (s : State) : Prop := ∃ inputs : Inputs, s = { State.reset with toInputs := inputs }

/-- The states reachable from reset by the operations (R37). -/
inductive Reachable : State → Prop where
  | atReset {s : State} (h : s.AtReset) : Reachable s
  | byOperation {s t : State} (i : Instr) (h : Reachable s) (step : exec i s = .next t) : Reachable t

end Sys2Proof.Machine
end

