-- ==== Sys2Proof/Certificates/Slice0/Obligations.lean ====
section
/-! DEFINITION. The statements about the model, one per entry of OBLIGATIONS.json. Every clause is read from the rule its
docstring cites; where a clause is the model's own, the docstring names the log entry. -/

open Sys2Proof Sys2Proof.Machine

/-! ### Selectors (30_encoding.md) -/

/-- R98 to R103 on words of V17 (95_test_vectors.md). -/
def Obligations.SelectorWordsOfTheTable : Prop :=
  decode 0x1800 Operands.zero = .ok (.attach none none none .ok) ∧
  decode 0x288B Operands.zero = .ok .detach ∧
  decode 0x163A { Operands.zero with addr := 303, data := 0x80 } = .ok (.write 303 0x80) ∧
  decode 0x0008 Operands.zero = .ok .start ∧
  decode 0x005A Operands.zero = .ok .drain ∧
  decode 0x010C Operands.zero = .ok .advance ∧
  decode 0x128B Operands.zero = .ok .expire ∧
  decode 0x143A Operands.zero = .ok .busOk ∧
  decode 0x002A Operands.zero = .error .workWaits ∧
  decode 0x342A Operands.zero = .error .reservedRequest ∧
  decode 0x1A0A Operands.zero = .error .reservedAgent ∧
  decode 0x121B Operands.zero = .error .guardFails

/-- R100, R103: whatever the "don't care" bits hold, a row's selector with the operation's operands decodes to that
operation, for every operation and all its operands. -/
def Obligations.DecodeOfEncodeWithAnyFill : Prop :=
  ∀ (bb : Nat) (i : Instr) (fill : Selector), i.wellFormed bb = true →
    decode (encodeWith fill i) (operandsOf i) = .ok i ∧ decode (encode i).1 (encode i).2 = .ok i

/-- R100: no selector matches two rows. -/
def Obligations.NoSelectorMatchesTwoRows : Prop :=
  ∀ (w : Selector) (o : Operands) (i j : Instr), i ∈ operations o → j ∈ operations o →
    rowMatches w i = true → rowMatches w j = true → i = j

/-- R98, R100, R103: the selector an operation's agent forms in a state decodes to the operation exactly when the
operation's guard holds there. -/
def Obligations.SelectedExactlyWhenGuarded : Prop :=
  ∀ (s : State) (i : Instr),
    decode (selectorOf s (agentOf i) (requestCodeOf i)) (operandsOf i) = .ok i ↔ guardOf i s

/-- R99, R104: a reserved agent, and a request code the agent does not have, select nothing in any state. -/
def Obligations.ReservedRequestsSelectNothing : Prop :=
  ∀ (s : State) (ag : BitVec 3) (rq : BitVec 4) (ops : Operands), requestKnown ag rq = false →
    operationOf (.raw ag rq ops) s = none ∧
    decode (selectorOf s ag rq) ops = .error (if 5 ≤ ag.toNat then .reservedAgent else .reservedRequest)

/-- R103, R107: while a detach is pending and no transfer is outstanding, the WORK agent's request selects DRAIN, and a
line that names any other WORK operation takes no step. -/
def Obligations.WorkSelectsDrainAfterDetach : Prop :=
  ∀ (s : State) (ops : Operands), GuardDrain s →
    operationOf (.raw 0 0 ops) s = some .drain ∧ operationOf (.line .drain) s = some .drain ∧
    ∀ i ∈ [Instr.start, .compose, .sendIssue, .sendDone, .advance], operationOf (.line i) s = none

/-! ### The step -/

/-- R20, R72, R103: a step takes the next request (the oldest of the inbox, or a free one where the inbox is empty: log
entry 1) and is the step of the operation it selects. The one answer of exec it does not pass on is R216's. -/
def Obligations.StepRunsTheSelectedOperation : Prop :=
  (∀ (s : State) (r : Request) (rest : List Request), s.inbox = r :: rest → fetch s = (r, { s with inbox := rest })) ∧
  (∀ s : State, s.inbox = [] → fetch s = (Config.freeRequest s.unit s.draws, { s with draws := s.draws + 1 })) ∧
  ∀ (s s1 : State) (r : Request) (i : Instr), fetch s = (r, s1) → s1.Coherent → operationOf r s1 = some i →
    (∀ a, exec i s1 ≠ .refused (.writeOutOfRange a)) → step s = exec i s1

/-- R104, R107, R181, R216: a request that selects nothing, and a WRITE outside the bitmap, leave the block as it is; the
request is used up (log entry 2). -/
def Obligations.RefusedRequestLeavesTheBlock : Prop :=
  ∀ (s s1 : State) (r : Request), fetch s = (r, s1) → s1.Coherent →
    (operationOf r s1 = none ∨
      ∃ i a, operationOf r s1 = some i ∧ exec i s1 = .refused (.writeOutOfRange a)) →
    step s = .next s1

/-- R38, R246: a state that violates R37 is stuck, for every operation and for every request. -/
def Obligations.IncoherentStateIsStuck : Prop :=
  ∀ s : State, ¬ s.Coherent → (∀ i, exec i s = .fault .stuckState) ∧ step s = .fault .stuckState

/-! ### Reset -/

/-- R48, R270. -/
def Obligations.ResetFields : Prop :=
  State.reset.att = false ∧ State.reset.st = .idle ∧ State.reset.cg = 0 ∧ State.reset.stp = false ∧
  State.reset.bsy = false ∧ State.reset.don = false ∧ State.reset.xst = false ∧ State.reset.tar = false ∧
  State.reset.wak = false ∧ State.reset.cs = true ∧ State.reset.geom = none ∧ State.reset.bm = none ∧
  State.reset.ss = none ∧ State.reset.wf = none ∧ State.reset.trace = []

/-- R271: while unattached, as after reset, every ATTACH takes its step and every other operation is refused. -/
def Obligations.OnlyAttachWhileUnattached : Prop :=
  ∀ s : State, s.Coherent → s.att = false →
    (∀ w h n a, ∃ t, exec (.attach w h n a) s = .next t) ∧
    ∀ i, (∀ w h n a, i ≠ .attach w h n a) → ∃ m, exec i s = .refused (.guardFails m)

/-! ### Geometry (40_geometry.md) -/

/-- R124. -/
def Obligations.ConsequencesOfAcceptance : Prop :=
  ∀ w h n : Nat, Valid w h n →
    (geometryOf w h n).pc % 8 = 0 ∧ 8 ≤ (geometryOf w h n).pc ∧
    (geometryOf w h n).cpg % 2 = 0 ∧ 2 ≤ (geometryOf w h n).cpg ∧
    w = n * (geometryOf w h n).pc ∧ w % 8 = 0 ∧ 8 * (geometryOf w h n).bb = w * h ∧
    (∀ y, y * w = 8 * (y * (w / 8))) ∧
    1 ≤ (geometryOf w h n).r ∧ 8 * (geometryOf w h n).r - 8 < h ∧ h ≤ 8 * (geometryOf w h n).r ∧
    3 ≤ (geometryOf w h n).pbb ∧ 3 ≤ (geometryOf w h n).gb ∧ 12 ≤ (geometryOf w h n).fb

/-- R121 and R128, with the capacities of R130 and R131: exactly when Derive answers OK, E_CONFIG and E_NOMEM, and the
geometry it answers. -/
def Obligations.DeriveOutcomes : Prop :=
  ∀ (p : Platform) (w h n r pc cpg pbb gb : Nat) (g : Geometry), r = (h + 7) / 8 → pc = w / n → cpg = pc / 4 →
    pbb = cpg * r + 1 → gb = n * pbb →
    g = { w := w, h := h, n := n, r := r, pc := pc, cpg := cpg, pbb := pbb, gb := gb, fb := 4 * gb, bb := w * h / 8 } →
    (derive p w h n = .ok g ↔ Valid w h n ∧ (∀ c, p.busMaxXfer = some c → g.gb ≤ c) ∧
      (∀ c, p.maxBitmapBytes = some c → g.bb ≤ c) ∧ ∀ c, p.maxFrameBytes = some c → g.fb ≤ c) ∧
    (derive p w h n = .error .eConfig ↔ ¬ Valid w h n ∨ ∃ c, p.busMaxXfer = some c ∧ c < g.gb) ∧
    (derive p w h n = .error .eNomem ↔ Valid w h n ∧ (∀ c, p.busMaxXfer = some c → g.gb ≤ c) ∧
      ((∃ c, p.maxBitmapBytes = some c ∧ c < g.bb) ∨ ∃ c, p.maxFrameBytes = some c ∧ c < g.fb))

/-- R129. -/
def Obligations.DefaultGeometryValues : Prop :=
  Valid 128 19 4 ∧
  geometryOf 128 19 4 =
    { w := 128, h := 19, n := 4, r := 3, pc := 32, cpg := 8, pbb := 25, gb := 100, fb := 400, bb := 304 }

/-- R126 and R127: the frame size identity, and every Wire Frame byte lies in exactly one of the four slices. -/
def Obligations.SlicesCoverTheWireFrame : Prop :=
  ∀ w h n : Nat, Valid w h n →
    (geometryOf w h n).fb = 4 * n * ((geometryOf w h n).cpg * (geometryOf w h n).r + 1) ∧
    ∀ o < (geometryOf w h n).fb, ∃ k < 4,
      (k * (geometryOf w h n).gb ≤ o ∧ o < k * (geometryOf w h n).gb + (geometryOf w h n).gb) ∧
      ∀ j < 4, j * (geometryOf w h n).gb ≤ o → o < j * (geometryOf w h n).gb + (geometryOf w h n).gb → j = k

/-! ### Device management and the writer (43_interfaces.md) -/

/-- R49, R212: an unattached block whose configuration is accepted, with the allocator's `ok`, attaches. BM holds a byte
at every address (any byte: log entry 6), SS and WF hold none yet (log entry 7), CS is not written. -/
def Obligations.AttachSucceeds : Prop :=
  ∀ (s : State) (w h n : Option Nat) (g : Geometry), s.Coherent → s.att = false →
    derive s.platform (w.getD 128) (h.getD 19) (n.getD 4) = .ok g →
    ∃ bm : Memory, bm.size = g.bb ∧ bm.full = true ∧
      exec (.attach w h n .ok) s = .next { s with
        att := true, st := .idle, cg := 0, stp := false, bsy := false, don := false, xst := false, tar := false
        wak := false, geom := some g, bm := some bm, ss := some { size := g.bb, cells := [] }
        wf := some { size := g.fb, cells := [] }, draws := s.draws + 1
        trace := s.trace ++ (if s.platform.pulseLineCanSleep then [.warnLineCanSleep] else []) ++ [.attached .ok] }

/-- R212, R241, R242: a configuration that Derive rejects, and an allocation that fails, change nothing but the trace. -/
def Obligations.AttachFails : Prop :=
  ∀ (s : State) (w h n : Option Nat) (a : Alloc), s.Coherent → s.att = false →
    (∀ r, derive s.platform (w.getD 128) (h.getD 19) (n.getD 4) = .error r →
      exec (.attach w h n a) s = .next { s with trace := s.trace ++ [.attached r] }) ∧
    (∀ g, derive s.platform (w.getD 128) (h.getD 19) (n.getD 4) = .ok g →
      exec (.attach w h n .fail) s = .next { s with trace := s.trace ++ [.attached .eNomem] })

/-- R214: DETACH, with an armed timer and without, and its refusal. -/
def Obligations.DetachEffect : Prop :=
  ∀ s : State, s.Coherent →
    (GuardDetach s → s.tar = true → exec .detach s =
      .next { s with stp := true, tar := false, cs := true, trace := s.trace ++ [.timerCancel, .csSet true] }) ∧
    (GuardDetach s → s.tar = false → exec .detach s = .next { s with stp := true }) ∧
    (¬ GuardDetach s → exec .detach s = .refused (.guardFails "DETACH"))

/-- R215: WRITE changes one byte of BM and nothing else. -/
def Obligations.WriteEffect : Prop :=
  ∀ (s : State) (g : Geometry) (bm : Memory) (addr : Nat) (data : Byte), s.Coherent → s.att = true →
    s.geom = some g → s.bm = some bm → bm.size = g.bb → addr < g.bb →
    ∃ bm', exec (.write addr data) s = .next { s with bm := some bm' } ∧ bm'.size = bm.size ∧
      bm'.read .bm addr = .ok data ∧ ∀ a, a ≠ addr → bm'.read .bm a = bm.read .bm a

/-- R216: a WRITE outside the Linear Bitmap, or while unattached, is refused, and as a request it changes nothing but
the inbox (the model's choice: log entry 2). -/
def Obligations.WriteOutOfRangeIsRefused : Prop :=
  ∀ (s : State) (addr : Nat) (data : Byte) (rest : List Request), s.Coherent →
    s.inbox = .line (.write addr data) :: rest →
    (s.att = false → exec (.write addr data) s = .refused (.guardFails "WRITE") ∧
      step s = .next { s with inbox := rest }) ∧
    (∀ g, s.att = true → s.geom = some g → g.bb ≤ addr →
      exec (.write addr data) s = .refused (.writeOutOfRange addr) ∧ step s = .next { s with inbox := rest })

/-- R221, R222: a completion, in every state with a transfer outstanding, whatever STP is; with no transfer outstanding
it is refused (R104). -/
def Obligations.BusCompletes : Prop :=
  ∀ s : State, s.Coherent →
    (s.att = true → s.st = .send → s.bsy = true → s.don = false →
      exec .busOk s =
        .next { s with bsy := false, don := true, xst := false, trace := s.trace ++ [.xferEnd s.cg false] } ∧
      exec .busErr s =
        .next { s with bsy := false, don := true, xst := true, trace := s.trace ++ [.xferEnd s.cg true] }) ∧
    (s.bsy = false →
      exec .busOk s = .refused (.guardFails "BUS.OK") ∧ exec .busErr s = .refused (.guardFails "BUS.ERR"))

/-! ### The scheduler (42_scheduler.md) -/

/-- R174. -/
def Obligations.StartEffect : Prop :=
  ∀ s : State, s.Coherent → s.att = true → s.stp = false → s.st = .idle →
    exec .start s = .next { s with st := .compose }

/-- R66, R147, R175: COMPOSE copies BM into SS, emits the bytes, and leaves in WF the closed form of SS at every
offset. Nothing else changes. -/
def Obligations.ComposeEffect : Prop :=
  ∀ (s : State) (g : Geometry) (bm : Memory), s.Inv → GuardCompose s → s.geom = some g → s.bm = some bm →
    ∃ (bytes : List Byte) (ss wf : Memory),
      bytes.length = g.bb ∧ (∀ a (h : a < bytes.length), bm.read .bm a = .ok bytes[a]) ∧
      ss.size = g.bb ∧ (∀ a, ∀ b, ss.read .ss a = .ok b ↔ bm.read .bm a = .ok b) ∧
      wf.size = g.fb ∧ (∀ o < g.fb, wf.read .wf o = .ok (wireByte g ss o)) ∧
      exec .compose s = .next { s with
        ss := some ss, wf := some wf, cg := 0, st := .send, trace := s.trace ++ [.snapshot bytes] }

/-- R96, R176: SEND.ISSUE transfers the group's slice in address order and leaves WF unchanged. -/
def Obligations.SendIssueEffect : Prop :=
  ∀ (s : State) (g : Geometry) (wf : Memory), s.Inv → GuardSendIssue s → s.geom = some g → s.wf = some wf →
    ∃ burst : List Byte, burst.length = g.gb ∧
      (∀ k (h : k < burst.length), wf.read .wf (s.cg.toNat * g.gb + k) = .ok burst[k]) ∧
      exec .sendIssue s =
        .next { s with cs := true, bsy := true, trace := s.trace ++ [.csSet true, .xfer s.cg burst] }

/-- R177: SEND.DONE, after a success and after a failure. -/
def Obligations.SendDoneEffect : Prop :=
  ∀ s : State, s.Coherent → GuardSendDone s →
    exec .sendDone s = .next { s with
      don := false, cs := false, tar := true, st := .pulseWait
      trace := s.trace ++ (if s.xst then [.logXferFail s.cg] else []) ++ [.csSet false, .timerArm s.cg] }

/-- R172, R178: EXPIRE ends the pulse, posts the wake and touches no memory. -/
def Obligations.ExpireEffect : Prop :=
  ∀ s : State, s.Coherent → GuardExpire s →
    exec .expire s = .next { s with
      tar := false, cs := true, wak := true, st := .advance
      trace := s.trace ++ [.timerExpire s.cg, .csSet true] }

/-- R179: the next group, or after group 3 the next frame. -/
def Obligations.AdvanceEffect : Prop :=
  ∀ s : State, s.Coherent → s.att = true → s.stp = false → s.st = .advance → s.wak = true →
    (s.cg = 3 → exec .advance s = .next { s with wak := false, cg := 0, st := .compose }) ∧
    (s.cg ≠ 3 → exec .advance s = .next { s with wak := false, cg := s.cg + 1, st := .send })

/-- R180: DRAIN; TAR and CS are not written. -/
def Obligations.DrainEffect : Prop :=
  ∀ s : State, s.Coherent → GuardDrain s →
    exec .drain s = .next { s with
      st := .idle, cg := 0, don := false, xst := false, wak := false, stp := false, att := false
      geom := none, bm := none, ss := none, wf := none
      trace := s.trace ++ (if s.don && s.xst then [.logXferFail s.cg] else []) ++ [.detached] }

/-- R24, R173, R248: after a DETACH no WORK operation but DRAIN has a step, and no EXPIRE. -/
def Obligations.StopDisablesAllButDrain : Prop :=
  ∀ s : State, s.Coherent → s.stp = true →
    exec .start s = .refused (.guardFails "START") ∧ exec .compose s = .refused (.guardFails "COMPOSE") ∧
    exec .sendIssue s = .refused (.guardFails "SEND.ISSUE") ∧ exec .sendDone s = .refused (.guardFails "SEND.DONE") ∧
    exec .advance s = .refused (.guardFails "ADVANCE") ∧ exec .expire s = .refused (.guardFails "EXPIRE") ∧
    (s.bsy = true → exec .drain s = .refused (.guardFails "DRAIN"))

/-- R45, R251: an EXPIRE finds the wake slot empty, so no wake is lost. -/
def Obligations.WakeIsNeverLost : Prop :=
  ∀ s t : State, exec .expire s = .next t → s.wak = false ∧ t.wak = true ∧ exec .expire t = .refused (.guardFails "EXPIRE")

/-- R181, R190: the WORK agent waits while a transfer is outstanding and while a pulse runs: its request leaves the block
as it is and is used up (the model's choice: log entry 2). -/
def Obligations.WorkWaits : Prop :=
  ∀ (s : State) (ops : Operands) (rest : List Request), s.Coherent → s.inbox = .raw 0 0 ops :: rest →
    (s.bsy = true ∨ s.tar = true) → step s = .next { s with inbox := rest }

/-! ### The compositor (41_compositor.md) -/

/-- R146; and R143, R146: the header's address determines the group, and no data byte of any coordinate is a header of
any. -/
def Obligations.CompositorAddressesInRange : Prop :=
  ∀ (g : Geometry) (x y : Nat), g.Accepted → x < g.w → y < g.h →
    (colInGroup g x < g.cpg ∧ vertReg g y < g.r ∧ blockBase g x < dataAddr g x y ∧
      dataAddr g x y - blockBase g x ≤ g.cpg * g.r ∧ g.cpg * g.r = g.pbb - 1 ∧
      blockBase g x ≤ 3 * g.gb + (g.n - 1) * g.pbb ∧ dataAddr g x y < g.fb ∧
      sampleIndex g x y < g.w * g.h ∧ sampleIndex g x y >>> 3 < g.bb) ∧
    groupOf x = blockBase g x / g.gb ∧
    ∀ x' < g.w, (blockBase g x = blockBase g x' → groupOf x = groupOf x') ∧ dataAddr g x y ≠ blockBase g x'

/-- R142 to R144, R149: a lit coordinate writes its block's header and sets its one data bit; every other byte is as
before. An unlit one leaves the memory as it is. -/
def Obligations.LitPixelSetsOneBit : Prop :=
  ∀ (g : Geometry) (ss wf : Memory) (x y : Nat), g.Accepted → x < g.w → y < g.h →
    ss.full = true → ss.size = g.bb → wf.full = true → wf.size = g.fb →
    (pixelAt ss (sampleIndex g x y) = false → pixel g ss x y wf = .ok wf) ∧
    (pixelAt ss (sampleIndex g x y) = true → ∃ wf' old, pixel g ss x y wf = .ok wf' ∧
      wf.read .wf (dataAddr g x y) = .ok old ∧
      wf'.read .wf (dataAddr g x y) = .ok (old ||| (1#8 <<< bitPos g y)) ∧
      wf'.read .wf (blockBase g x) = .ok (BitVec.ofNat 8 (groupOf x)) ∧
      ∀ o, o ≠ dataAddr g x y → o ≠ blockBase g x → wf'.read .wf o = wf.read .wf o)

/-- R145: two coordinates may be visited in either order. -/
def Obligations.PixelOrderDoesNotMatter : Prop :=
  ∀ (g : Geometry) (ss wf : Memory) (x y x' y' : Nat), g.Accepted → x < g.w → y < g.h → x' < g.w → y' < g.h →
    ss.full = true → ss.size = g.bb → wf.full = true → wf.size = g.fb →
    ∃ m1 m2 last, pixel g ss x y wf = .ok m1 ∧ pixel g ss x' y' m1 = .ok last ∧
      pixel g ss x' y' wf = .ok m2 ∧ pixel g ss x y m2 = .ok last

/-- R147: BUILD over a zeroed Wire Frame never faults and leaves the closed form at every offset. -/
def Obligations.BuildIsTheClosedForm : Prop :=
  ∀ (g : Geometry) (ss : Memory), g.Accepted → ss.full = true → ss.size = g.bb →
    ∃ wf, build g ss (Memory.zeros g.fb) = .ok wf ∧ wf.size = g.fb ∧
      ∀ o < g.fb, wf.read .wf o = .ok (wireByte g ss o)

/-- R69, R94: the bits of every data byte after BUILD, by block, column and register. -/
def Obligations.BuiltDataBits : Prop :=
  ∀ (g : Geometry) (ss wf : Memory), g.Accepted → ss.full = true → ss.size = g.bb →
    build g ss (Memory.zeros g.fb) = .ok wf →
    ∀ grp < 4, ∀ p < g.n, ∀ c < g.cpg, ∀ r < g.r, ∃ v, wf.read .wf (grp * g.gb + p * g.pbb + 1 + c * g.r + r) = .ok v ∧
      ∀ b < 8, v.getLsbD b = true ↔
        8 * r + (7 - b) < g.h ∧
        pixelAt ss ((g.h - 1 - (8 * r + (7 - b))) * g.w + (g.w - 1 - (p * g.pc + 4 * (c ^^^ 1) + grp))) = true

/-- R93, R148: the header after BUILD is the group where a coordinate of the block is lit, and 0 where none is. -/
def Obligations.BuiltHeaders : Prop :=
  ∀ (g : Geometry) (ss wf : Memory), g.Accepted → ss.full = true → ss.size = g.bb →
    build g ss (Memory.zeros g.fb) = .ok wf →
    ∀ grp < 4, ∀ p < g.n,
      ((∃ x y, x < g.w ∧ y < g.h ∧ groupOf x = grp ∧ panelOf g x = p ∧ pixelAt ss (sampleIndex g x y) = true) →
        wf.read .wf (grp * g.gb + p * g.pbb) = .ok (BitVec.ofNat 8 grp)) ∧
      ((∀ x y, x < g.w → y < g.h → groupOf x = grp → panelOf g x = p → pixelAt ss (sampleIndex g x y) = false) →
        wf.read .wf (grp * g.gb + p * g.pbb) = .ok 0#8)

/-- R149, R151: the inverse mapping recovers the coordinate of every data bit, and every coordinate of the display is
the origin of its own data bit. -/
def Obligations.MappingIsInvertible : Prop :=
  ∀ g : Geometry, g.Accepted →
    (∀ x y, x < g.w → y < g.h → bitPos g y < 8 ∧ originOf g (dataAddr g x y) (bitPos g y) = some (x, y)) ∧
    (∀ o b x y, o < g.fb → b < 8 → originOf g o b = some (x, y) →
      x < g.w ∧ y < g.h ∧ dataAddr g x y = o ∧ bitPos g y = b)

/-- R154, with the mask of R150: all-zero and all-ones snapshots. -/
def Obligations.DarkAndLitFrames : Prop :=
  ∀ (g : Geometry) (ss wf : Memory), g.Accepted → ss.full = true → ss.size = g.bb →
    build g ss (Memory.zeros g.fb) = .ok wf →
    ((∀ a < g.bb, ss.read .ss a = .ok 0#8) → ∀ o < g.fb, wf.read .wf o = .ok 0#8) ∧
    ((∀ a < g.bb, ss.read .ss a = .ok 0xFF#8) → ∀ grp < 4, ∀ p < g.n,
      wf.read .wf (grp * g.gb + p * g.pbb) = .ok (BitVec.ofNat 8 grp) ∧
      ∀ c < g.cpg, ∀ r < g.r, wf.read .wf (grp * g.gb + p * g.pbb + 1 + c * g.r + r) =
        .ok (if r < g.r - 1 then 0xFF#8 else 0xFF#8 <<< (8 - (g.h - 8 * (g.r - 1)))))

/-! ### Invariants -/

/-- R37, R43, R47, R48: the invariants, with the clause of log entry 5, hold at reset. -/
def Obligations.InvariantsAtReset : Prop :=
  State.reset.Inv ∧ State.reset.memoriesCanonical = true ∧ watch State.reset.trace = some (phaseOf State.reset) ∧
  lineLevel State.reset.trace = State.reset.cs

/-- R37, R43, R49, with the clause of log entry 5: every step keeps the invariant, from every state that has it. -/
def Obligations.StepKeepsInvariant : Prop :=
  ∀ s t : State, s.Inv → step s = .next t → t.Inv

/-- R37: every state reachable from reset by the operations satisfies its six clauses. -/
def Obligations.ReachableStatesAreCoherent : Prop :=
  ∀ s : State, Reachable s → s.DetachedIsIdle ∧ s.TransferIsInSend ∧ s.TimerIsInPulse ∧ s.WakeIsInAdvance ∧
    s.LowIsInPulse ∧ s.CodeIsNamed

/-- R146, R186, R245, R246: from a state with the invariant no request faults, sticks or stops the machine. -/
def Obligations.StepAlwaysGoesOn : Prop :=
  ∀ s : State, s.Inv → ∃ t, step s = .next t

/-- R60, with log entry 7: every operation keeps the canonical form of the memories. -/
def Obligations.MemoriesStayCanonical : Prop :=
  ∀ (s t : State) (i : Instr), s.memoriesCanonical = true → exec i s = .next t → t.memoriesCanonical = true

/-- R171, R177, R182, R183: the events of every run stay in the order of the frame: SNAPSHOT, then for groups 0, 1, 2, 3
XFER, XFER_END, TIMER_ARM and TIMER_EXPIRE, each failed transfer logged once, DETACHED only between transfers. -/
def Obligations.EventsStayInOrder : Prop :=
  ∀ s t : State, s.Coherent → watch s.trace = some (phaseOf s) → step s = .next t → watch t.trace = some (phaseOf t)

/-- R30, R47: the line's level is the last CS_SET of the trace, and stays CS. -/
def Obligations.LineLevelFollowsChipSelect : Prop :=
  ∀ s t : State, lineLevel s.trace = s.cs → step s = .next t → lineLevel t.trace = t.cs

/-- R47, R272: an operation only appends to the trace, and changes neither the platform, nor the requests, nor the
instance's name. -/
def Obligations.TraceOnlyGrows : Prop :=
  ∀ (s t : State) (i : Instr), exec i s = .next t →
    (∃ events, t.trace = s.trace ++ events) ∧ t.platform = s.platform ∧ t.inbox = s.inbox ∧ t.unit = s.unit

/-- R31, R71, R74, R132: between ATTACH and DRAIN the geometry is fixed, only WRITE changes BM, and only COMPOSE
changes SS and WF. -/
def Obligations.MemoriesHaveOneWriter : Prop :=
  ∀ (s t : State) (i : Instr), exec i s = .next t → (∀ w h n a, i ≠ .attach w h n a) → i ≠ .drain →
    t.geom = s.geom ∧ t.att = s.att ∧ ((∀ a d, i ≠ .write a d) → t.bm = s.bm) ∧
    (i ≠ .compose → t.ss = s.ss ∧ t.wf = s.wf)

/-- R73, R249: a WRITE and a step of any other agent or operation but COMPOSE, ATTACH and DRAIN may come in either
order. -/
def Obligations.WriteCommutesUpToCompose : Prop :=
  ∀ (s s1 s2 : State) (addr : Nat) (data : Byte) (i : Instr),
    i ∈ [Instr.detach, .start, .sendIssue, .sendDone, .expire, .advance, .busOk, .busErr] →
    exec (.write addr data) s = .next s1 → exec i s = .next s2 →
    ∃ t, exec i s1 = .next t ∧ exec (.write addr data) s2 = .next t

/-- R140, R152: the frame a COMPOSE builds and the snapshot it emits depend on BM and GEOM alone. -/
def Obligations.FrameDependsOnBitmapAndGeometry : Prop :=
  ∀ s s' t t' : State, exec .compose s = .next t → exec .compose s' = .next t' → s.geom = s'.geom → s.bm = s'.bm →
    t.wf = t'.wf ∧ t.ss = t'.ss ∧
    ∃ bytes, t.trace = s.trace ++ [.snapshot bytes] ∧ t'.trace = s'.trace ++ [.snapshot bytes]

/-- R184, R243, R245: a failed transfer changes nothing of what follows but XST and the events. -/
def Obligations.FailureDoesNotChangeTheSchedule : Prop :=
  ∀ s : State, s.Coherent → GuardBusErr s → s.stp = false →
    ∃ ok1 err1 ok2 err2, exec .busOk s = .next ok1 ∧ exec .busErr s = .next err1 ∧
      exec .sendDone ok1 = .next ok2 ∧ exec .sendDone err1 = .next err2 ∧
      err2.trace = s.trace ++ [.xferEnd s.cg true, .logXferFail s.cg, .csSet false, .timerArm s.cg] ∧
      ok2.trace = s.trace ++ [.xferEnd s.cg false, .csSet false, .timerArm s.cg] ∧
      { ok2 with xst := true, trace := err2.trace } = err2

/-- R249: DETACH and EXPIRE race at the end of a pulse; DRAIN follows either order, and both end detached with the line
high. -/
def Obligations.DetachAndExpireRace : Prop :=
  ∀ s : State, s.Coherent → GuardExpire s →
    ∃ t t', runOps [.detach, .drain] s = some t ∧ runOps [.expire, .detach, .drain] s = some t' ∧
      t.trace = s.trace ++ [.timerCancel, .csSet true, .detached] ∧
      t'.trace = s.trace ++ [.timerExpire s.cg, .csSet true, .detached] ∧
      t.att = false ∧ t.cs = true ∧ { t with trace := t'.trace } = t'

/-- R180, R221, R249, R274: a DETACH during a transfer waits for the bus, and the failure is still logged. -/
def Obligations.DetachWaitsForTheBus : Prop :=
  ∀ s : State, s.Coherent → GuardDetach s → s.bsy = true →
    ∃ s1 s2 s3, exec .detach s = .next s1 ∧ exec .drain s1 = .refused (.guardFails "DRAIN") ∧
      exec .busErr s1 = .next s2 ∧ exec .drain s2 = .next s3 ∧
      s3.trace = s.trace ++ [.xferEnd s.cg true, .logXferFail s.cg, .detached] ∧ s3.att = false

/-- R180, R270 and 92 D29: after DRAIN every field of the block is as after reset, the trace apart. The inputs
(log entries 8, 10 and 23) are as before. -/
def Obligations.DrainReturnsResetValues : Prop :=
  ∀ s t : State, s.Inv → exec .drain s = .next t →
    t = { State.reset with toInputs := s.toInputs, trace := t.trace } ∧
    ∃ events, t.trace = s.trace ++ events ++ [.detached]

/-- R108, R171, R182: GROUP, with no other agent between, sends the group's slice and moves to the next group, or after
group 3 to COMPOSE. -/
def Obligations.GroupSendsOneSlice : Prop :=
  ∀ (s : State) (g : Geometry) (wf : Memory), s.Inv → GuardSendIssue s → s.geom = some g → s.wf = some wf →
    ∃ t burst, runOps groupLines s = some t ∧ burst.length = g.gb ∧
      (∀ k (h : k < burst.length), wf.read .wf (s.cg.toNat * g.gb + k) = .ok burst[k]) ∧
      t = { s with
        cg := if s.cg = 3 then 0 else s.cg + 1, st := if s.cg = 3 then .compose else .send, xst := false
        cs := true, trace := s.trace ++ groupEvents s.cg burst }

/-- R127, R171, R175, R183: FRAME snapshots BM, sends the four slices in group order, and returns to COMPOSE; the bytes
sent are the closed form of the snapshot, all of it once. -/
def Obligations.FrameSendsTheWholeWireFrame : Prop :=
  ∀ (s : State) (g : Geometry) (bm : Memory), s.Inv → GuardCompose s → s.geom = some g → s.bm = some bm →
    ∃ t bytes ss b0 b1 b2 b3, runOps frameLines s = some t ∧ t.st = .compose ∧ t.cg = 0 ∧ t.bm = some bm ∧
      t.ss = some ss ∧ (∀ a b, ss.read .ss a = .ok b ↔ bm.read .bm a = .ok b) ∧
      t.trace = s.trace ++ .snapshot bytes ::
        (groupEvents 0 b0 ++ groupEvents 1 b1 ++ groupEvents 2 b2 ++ groupEvents 3 b3) ∧
      b0.length = g.gb ∧ b1.length = g.gb ∧ b2.length = g.gb ∧ b3.length = g.gb ∧
      ∀ o < g.fb, (b0 ++ b1 ++ b2 ++ b3)[o]? = some (wireByte g ss o)

/-- R108, R215: SETPIX lights its pixel and CLRPIX darkens it; every other pixel of BM is as before. -/
def Obligations.SetPixAndClrPixChangeOnePixel : Prop :=
  ∀ (s : State) (g : Geometry) (bm : Memory) (last : Byte) (x y : Nat), s.Inv → s.att = true →
    s.geom = some g → s.bm = some bm → x < g.w → y < g.h → bm.read .bm ((y * g.w + x) >>> 3) = .ok last →
    ∃ lit dark, exec (setPix g last x y) s = .next { s with bm := some lit } ∧
      exec (clrPix g last x y) s = .next { s with bm := some dark } ∧
      pixelAt lit (y * g.w + x) = true ∧ pixelAt dark (y * g.w + x) = false ∧
      ∀ idx, idx ≠ y * g.w + x → pixelAt lit idx = pixelAt bm idx ∧ pixelAt dark idx = pixelAt bm idx

/-- R227, R256: a step of one instance changes no other (the list of instances and their names are the model's: log
entries 15 and 23). -/
def Obligations.InstancesShareNothing : Prop :=
  ∀ (system system' : List State) (k : Nat), stepInstance k system = .next system' →
    system'.length = system.length ∧ system'.map (fun t => t.unit) = system.map (fun s => s.unit) ∧ (∀ j, j ≠ k → system'[j]? = system[j]?) ∧
    ∀ s, system[k]? = some s → ∃ t, step s = .next t ∧ system'[k]? = some t

/-! ### Fair runs (70_reset_and_hazards.md) -/

/-- R284: in a fair run every DETACH is followed by DETACHED. -/
def Obligations.EveryDetachIsFollowedByDetached : Prop :=
  ∀ (asks : Nat → Request) (states : Nat → State), FairRun asks states → ∀ k, Takes asks states k .detach →
    ∃ j, k < j ∧ Takes asks states j .drain ∧ (states (j + 1)).att = false ∧
      ∃ events, (states (j + 1)).trace = (states k).trace ++ events ++ [.detached]

/-- R186, R284: in a fair run every frame completes, unless a DETACH comes first: each group's pulse has ended, in group
3 the last, and the next frame's COMPOSE is enabled. -/
def Obligations.EveryFrameCompletes : Prop :=
  ∀ (asks : Nat → Request) (states : Nat → State), FairRun asks states → ∀ k, Takes asks states k .compose →
    ∃ j, k < j ∧ (∀ m, k < m → m < j → ¬ Takes asks states m .compose ∧ ¬ Takes asks states m .detach) ∧
      (Takes asks states j .detach ∨
        (Takes asks states j .advance ∧ (states j).cg = 3 ∧ GuardCompose (states (j + 1)) ∧
          ∀ g : BitVec 2, ∃ m, k < m ∧ m < j ∧ Takes asks states m .expire ∧ (states m).cg = g))
end

