-- ==== Sys2Proof/Laws/Memory.lean ====
section
/-! SUPPORT. The laws of the byte memories: read after write, and the canonical form that every operation keeps. -/

namespace Sys2Proof.Machine

/-- The addresses a list of cells lists. -/
abbrev listed (cs : List Host.Cell) : List Nat := cs.map Prod.fst

theorem risingCells_iff (cs : List Host.Cell) : risingCells cs = true ↔ (listed cs).Pairwise (· < ·) := by
  induction cs with
  | nil => simp [risingCells]
  | cons c rest ih =>
    cases rest with
    | nil => simp [risingCells]
    | cons d rest' =>
      obtain ⟨a, u⟩ := c
      obtain ⟨b, v⟩ := d
      simp only [risingCells, Bool.and_eq_true, decide_eq_true_eq, ih, listed, List.map_cons, List.pairwise_cons,
        List.mem_cons, forall_eq_or_imp]
      refine ⟨fun ⟨hab, hb, hp⟩ => ⟨⟨hab, fun k hk => Nat.lt_trans hab (hb k hk)⟩, hb, hp⟩,
        fun ⟨⟨hab, _⟩, hb, hp⟩ => ⟨hab, hb, hp⟩⟩

theorem lookupCell_insertCell (a b : Nat) (v : Byte) (cs : List Host.Cell) :
    lookupCell b (insertCell a v cs) = if b = a then some v else lookupCell b cs := by
  induction cs with
  | nil => by_cases h : a = b <;> simp [insertCell, lookupCell, h, eq_comm]
  | cons c rest ih =>
    obtain ⟨k, u⟩ := c
    by_cases hlt : k < a
    · by_cases hk : k = b
      · subst hk
        simp [insertCell, lookupCell, hlt, Nat.ne_of_lt hlt]
      · simp [insertCell, lookupCell, hlt, hk, ih]
    · by_cases hka : k = a
      · subst hka
        by_cases hb : k = b
        · simp [insertCell, lookupCell, hb]
        · simp [insertCell, lookupCell, hb, Ne.symm hb]
      · by_cases hb : a = b
        · subst hb
          simp [insertCell, lookupCell, hlt, hka]
        · simp [insertCell, lookupCell, hlt, hka, hb, Ne.symm hb]

theorem mem_listed_insertCell (a k : Nat) (v : Byte) (cs : List Host.Cell) :
    k ∈ listed (insertCell a v cs) ↔ k = a ∨ k ∈ listed cs := by
  induction cs with
  | nil => simp [insertCell]
  | cons c rest ih =>
    obtain ⟨j, u⟩ := c
    simp only [listed] at ih
    by_cases hlt : j < a
    · simp only [insertCell, if_pos hlt, listed, List.map_cons, List.mem_cons, ih]
      tauto
    · by_cases hja : j = a
      · simp [insertCell, hja]
      · simp [insertCell, hlt, hja]

theorem insertCell_rising {a : Nat} {v : Byte} {cs : List Host.Cell} (h : (listed cs).Pairwise (· < ·)) :
    (listed (insertCell a v cs)).Pairwise (· < ·) := by
  induction cs with
  | nil => simp [insertCell]
  | cons c rest ih =>
    obtain ⟨k, u⟩ := c
    simp only [listed, List.map_cons, List.pairwise_cons] at h
    by_cases hlt : k < a
    · simp only [insertCell, if_pos hlt, listed, List.map_cons, List.pairwise_cons]
      refine ⟨fun b hb => ?_, ih h.2⟩
      rcases (mem_listed_insertCell a b v rest).1 hb with rfl | hb
      · exact hlt
      · exact h.1 b hb
    · by_cases hka : k = a
      · subst hka
        simpa [insertCell] using h
      · simp only [insertCell, if_neg hlt, if_neg hka, listed, List.map_cons, List.pairwise_cons, List.mem_cons,
          forall_eq_or_imp]
        refine ⟨⟨by omega, fun b hb => ?_⟩, h⟩
        have := h.1 b hb
        omega

/-- Writing a listed address changes no address that is listed. -/
theorem listed_insertCell_of_mem {a : Nat} {v : Byte} {cs : List Host.Cell} (h : (listed cs).Pairwise (· < ·))
    (ha : a ∈ listed cs) : listed (insertCell a v cs) = listed cs := by
  induction cs with
  | nil => simp at ha
  | cons c rest ih =>
    obtain ⟨k, u⟩ := c
    simp only [listed, List.map_cons, List.pairwise_cons] at h
    by_cases hlt : k < a
    · have hmem : a ∈ listed rest := by
        simp only [listed, List.map_cons, List.mem_cons] at ha
        rcases ha with rfl | ha
        · exact absurd hlt (Nat.lt_irrefl _)
        · exact ha
      simp only [insertCell, if_pos hlt, listed, List.map_cons, List.cons.injEq, true_and]
      exact ih h.2 hmem
    · by_cases hka : k = a
      · simp [insertCell, hka]
      · simp only [listed, List.map_cons, List.mem_cons] at ha
        rcases ha with rfl | ha
        · exact absurd rfl hka
        · have := h.1 a ha
          omega

theorem listed_numberFrom (a : Nat) (bs : List Byte) : listed (numberFrom a bs) = List.range' a bs.length := by
  induction bs generalizing a with
  | nil => simp [numberFrom]
  | cons b rest ih =>
    simp only [listed] at ih
    simp [numberFrom, ih, List.range'_succ]

theorem lookupCell_numberFrom (a k : Nat) (bs : List Byte) :
    lookupCell k (numberFrom a bs) = if a ≤ k then bs[k - a]? else none := by
  induction bs generalizing a with
  | nil => simp [numberFrom, lookupCell, Memory.unlisted]
  | cons b rest ih =>
    simp only [numberFrom, lookupCell, ih]
    by_cases h : a = k
    · simp [h]
    · by_cases hle : a ≤ k
      · have h1 : a + 1 ≤ k := by omega
        have h2 : k - a = (k - (a + 1)) + 1 := by omega
        simp [h, hle, h1, h2]
      · have h1 : ¬ a + 1 ≤ k := by omega
        simp [h, hle, h1]

theorem mem_listed_iff_lookupCell (k : Nat) (cs : List Host.Cell) :
    k ∈ listed cs ↔ ∃ b, lookupCell k cs = some b := by
  induction cs with
  | nil => simp [lookupCell, Memory.unlisted]
  | cons c rest ih =>
    obtain ⟨j, u⟩ := c
    simp only [listed] at ih
    by_cases h : j = k
    · simp [lookupCell, h]
    · simp [lookupCell, h, Ne.symm h, ih]

/-! ### The canonical form -/

theorem Memory.wf_iff (m : Memory) :
    m.wf = true ↔ (listed m.cells).Pairwise (· < ·) ∧ ∀ k ∈ listed m.cells, k < m.size := by
  simp [Memory.wf, risingCells_iff]

theorem Memory.full_iff (m : Memory) : m.full = true ↔ listed m.cells = List.range m.size := by
  simp [Memory.full]

theorem Memory.wf_of_full {m : Memory} (h : m.full = true) : m.wf = true := by
  rw [Memory.full_iff] at h
  rw [Memory.wf_iff, h]
  exact ⟨List.pairwise_lt_range, fun k hk => List.mem_range.1 hk⟩

theorem Memory.unspecified_wf (n : Nat) : (Memory.unspecified n).wf = true := by
  simp [Memory.unspecified, Memory.wf, risingCells]

theorem Memory.numbered_full (n : Nat) (bs : List Byte) (h : bs.length = n) :
    ({ size := n, cells := numberFrom 0 bs } : Memory).full = true := by
  rw [Memory.full_iff]
  simp [listed_numberFrom, h, List.range_eq_range']

theorem Memory.zeros_full (n : Nat) : (Memory.zeros n).full = true :=
  Memory.numbered_full n _ (by simp)

theorem Memory.arbitrary_full (unit k n : Nat) : (Memory.arbitrary unit k n).full = true :=
  Memory.numbered_full n _ (by simp)

/-- What a one-byte write can do (R14). -/
theorem Memory.write_ok {name : MemoryName} {m m' : Memory} {a : Nat} {v : Byte} (h : m.write name a v = .ok m') :
    a < m.size ∧ m' = { m with cells := insertCell a v m.cells } := by
  unfold Memory.write at h
  split at h
  · exact ⟨‹_›, (Except.ok.inj h).symm⟩
  · cases h

theorem Memory.write_size {name : MemoryName} {m m' : Memory} {a : Nat} {v : Byte} (h : m.write name a v = .ok m') :
    m'.size = m.size := by
  obtain ⟨_, rfl⟩ := Memory.write_ok h
  rfl

theorem Memory.write_wf {name : MemoryName} {m m' : Memory} {a : Nat} {v : Byte} (h : m.write name a v = .ok m')
    (hm : m.wf = true) : m'.wf = true := by
  obtain ⟨ha, rfl⟩ := Memory.write_ok h
  rw [Memory.wf_iff] at hm ⊢
  refine ⟨insertCell_rising hm.1, fun k hk => ?_⟩
  rcases (mem_listed_insertCell a k v m.cells).1 hk with rfl | hk
  · exact ha
  · exact hm.2 k hk

theorem Memory.write_full {name : MemoryName} {m m' : Memory} {a : Nat} {v : Byte} (h : m.write name a v = .ok m')
    (hm : m.full = true) : m'.full = true := by
  obtain ⟨ha, rfl⟩ := Memory.write_ok h
  have hw := (Memory.wf_iff m).1 (Memory.wf_of_full hm)
  rw [Memory.full_iff] at hm ⊢
  have hmem : a ∈ listed m.cells := by rw [hm]; exact List.mem_range.2 ha
  simpa [hm] using listed_insertCell_of_mem hw.1 hmem

/-- What a whole-memory write can do (R66). -/
theorem Memory.writeAll_ok {name : MemoryName} {m m' : Memory} {bs : List Byte} (h : m.writeAll name bs = .ok m') :
    bs.length = m.size ∧ m' = { m with cells := numberFrom 0 bs } := by
  unfold Memory.writeAll at h
  split at h
  · exact ⟨‹_›, (Except.ok.inj h).symm⟩
  · cases h

theorem Memory.writeAll_full {name : MemoryName} {m m' : Memory} {bs : List Byte} (h : m.writeAll name bs = .ok m') :
    m'.full = true ∧ m'.size = m.size := by
  obtain ⟨hl, rfl⟩ := Memory.writeAll_ok h
  exact ⟨Memory.numbered_full _ _ hl, rfl⟩

/-! ### Reading -/

theorem Memory.read_ok_iff {name : MemoryName} {m : Memory} {a : Nat} {b : Byte} :
    m.read name a = .ok b ↔ a < m.size ∧ lookupCell a m.cells = some b := by
  unfold Memory.read
  split
  · cases h : lookupCell a m.cells <;> simp_all
  · simp_all

theorem Memory.read_of_full {name : MemoryName} {m : Memory} (h : m.full = true) {a : Nat} (ha : a < m.size) :
    ∃ b, m.read name a = .ok b := by
  have hmem : a ∈ listed m.cells := by rw [(Memory.full_iff m).1 h]; exact List.mem_range.2 ha
  obtain ⟨b, hb⟩ := (mem_listed_iff_lookupCell a m.cells).1 hmem
  exact ⟨b, Memory.read_ok_iff.2 ⟨ha, hb⟩⟩

theorem Memory.read_write {name name' : MemoryName} {m m' : Memory} {a : Nat} {v : Byte}
    (h : m.write name a v = .ok m') (b : Nat) : m'.read name' b = if b = a then .ok v else m.read name' b := by
  obtain ⟨ha, rfl⟩ := Memory.write_ok h
  by_cases hb : b = a
  · subst hb
    simp [Memory.read, ha, lookupCell_insertCell]
  · simp [Memory.read, lookupCell_insertCell, hb]

theorem Memory.readMany_ok_iff {name : MemoryName} {m : Memory} {a n : Nat} {bs : List Byte} :
    m.readMany name a n = .ok bs ↔ bs.length = n ∧ ∀ k (hk : k < bs.length), m.read name (a + k) = .ok bs[k] := by
  induction n generalizing a bs with
  | zero =>
    simp only [Memory.readMany, Except.ok.injEq]
    constructor
    · rintro rfl
      simp
    · rintro ⟨h, _⟩
      exact (List.length_eq_zero_iff.1 h).symm
  | succ n ih =>
    cases hb : m.read name a with
    | error f =>
      simp only [Memory.readMany, hb]
      constructor
      · intro h
        cases h
      · rintro ⟨hl, h⟩
        have := h 0 (by omega)
        rw [Nat.add_zero, hb] at this
        cases this
    | ok b =>
      cases hr : m.readMany name (a + 1) n with
      | error f =>
        simp only [Memory.readMany, hb, hr]
        constructor
        · intro h
          cases h
        · rintro ⟨hl, h⟩
          have : m.readMany name (a + 1) n = .ok bs.tail := by
            rw [ih]
            refine ⟨by simp [hl], fun k hk => ?_⟩
            rw [List.length_tail] at hk
            have := h (k + 1) (by omega)
            rw [List.getElem_tail, ← this, Nat.add_assoc, Nat.add_comm 1 k]
          rw [hr] at this
          cases this
      | ok rest =>
        obtain ⟨hlr, hrr⟩ := ih.1 hr
        simp only [Memory.readMany, hb, hr, Except.ok.injEq]
        constructor
        · rintro rfl
          refine ⟨by simp [hlr], fun k hk => ?_⟩
          cases k with
          | zero => simpa using hb
          | succ k =>
            have := hrr k (by simpa using hk)
            rw [List.getElem_cons_succ, ← this, Nat.add_assoc, Nat.add_comm 1 k]
        · rintro ⟨hl, h⟩
          apply List.ext_getElem
          · simp [hl, hlr]
          · intro k h1 h2
            cases k with
            | zero =>
              have := h 0 h2
              rw [Nat.add_zero, hb] at this
              simpa using this
            | succ k =>
              have hk := hrr k (by simpa using h1)
              have := h (k + 1) h2
              rw [show a + (k + 1) = a + 1 + k by omega, hk] at this
              simpa using this

theorem Memory.readMany_of_full {name : MemoryName} {m : Memory} (h : m.full = true) {a n : Nat}
    (hn : a + n ≤ m.size) : ∃ bs, m.readMany name a n = .ok bs := by
  induction n generalizing a with
  | zero => exact ⟨[], rfl⟩
  | succ n ih =>
    obtain ⟨b, hb⟩ := Memory.read_of_full (name := name) h (a := a) (by omega)
    obtain ⟨bs, hbs⟩ := ih (a := a + 1) (by omega)
    exact ⟨b :: bs, by simp [Memory.readMany, hb, hbs]⟩

/-- The rule of a loop: what holds before it and is kept by every turn holds after it, and no turn faults (R17). -/
theorem forRange_ok {α : Type} {body : Nat → α → Except Fault α} {n : Nat} {start : α} (P : Nat → α → Prop)
    (h0 : P 0 start) (turn : ∀ k < n, ∀ a, P k a → ∃ b, body k a = .ok b ∧ P (k + 1) b) :
    ∃ b, forRange n body start = .ok b ∧ P n b := by
  induction n with
  | zero => exact ⟨start, rfl, h0⟩
  | succ n ih =>
    obtain ⟨a, ha, hP⟩ := ih fun k hk => turn k (by omega)
    obtain ⟨b, hb, hP'⟩ := turn n (by omega) a hP
    exact ⟨b, by simp [forRange, ha, hb], hP'⟩

/-- A loop that ends keeps what every turn that ends keeps (R17). -/
theorem forRange_keeps {α : Type} {body : Nat → α → Except Fault α} {n : Nat} {start last : α} (P : α → Prop)
    (h0 : P start) (turn : ∀ k a b, P a → body k a = .ok b → P b) (h : forRange n body start = .ok last) : P last := by
  induction n generalizing last with
  | zero => exact (Except.ok.inj h) ▸ h0
  | succ n ih =>
    simp only [forRange] at h
    split at h
    · cases h
    · exact turn n _ _ (ih ‹_›) h

end Sys2Proof.Machine
end

