-- ==== Sys2Proof/Laws/State.lean ====
section
/-! SUPPORT. The small lemmas of the state's shared updates: one per field per update, so that no later proof unfolds a
record update. -/

namespace Sys2Proof.Machine

@[simp] theorem State.emit_att (s : State) (e : Event) : (s.emit e).att = s.att := rfl
@[simp] theorem State.emit_st (s : State) (e : Event) : (s.emit e).st = s.st := rfl
@[simp] theorem State.emit_cg (s : State) (e : Event) : (s.emit e).cg = s.cg := rfl
@[simp] theorem State.emit_stp (s : State) (e : Event) : (s.emit e).stp = s.stp := rfl
@[simp] theorem State.emit_bsy (s : State) (e : Event) : (s.emit e).bsy = s.bsy := rfl
@[simp] theorem State.emit_don (s : State) (e : Event) : (s.emit e).don = s.don := rfl
@[simp] theorem State.emit_xst (s : State) (e : Event) : (s.emit e).xst = s.xst := rfl
@[simp] theorem State.emit_tar (s : State) (e : Event) : (s.emit e).tar = s.tar := rfl
@[simp] theorem State.emit_wak (s : State) (e : Event) : (s.emit e).wak = s.wak := rfl
@[simp] theorem State.emit_cs (s : State) (e : Event) : (s.emit e).cs = s.cs := rfl
@[simp] theorem State.emit_geom (s : State) (e : Event) : (s.emit e).geom = s.geom := rfl
@[simp] theorem State.emit_bm (s : State) (e : Event) : (s.emit e).bm = s.bm := rfl
@[simp] theorem State.emit_ss (s : State) (e : Event) : (s.emit e).ss = s.ss := rfl
@[simp] theorem State.emit_wf (s : State) (e : Event) : (s.emit e).wf = s.wf := rfl
@[simp] theorem State.emit_trace (s : State) (e : Event) : (s.emit e).trace = s.trace ++ [e] := rfl
@[simp] theorem State.emit_toInputs (s : State) (e : Event) : (s.emit e).toInputs = s.toInputs := rfl

@[simp] theorem State.driveCs_att (s : State) (level : Bool) : (s.driveCs level).att = s.att := rfl
@[simp] theorem State.driveCs_st (s : State) (level : Bool) : (s.driveCs level).st = s.st := rfl
@[simp] theorem State.driveCs_cg (s : State) (level : Bool) : (s.driveCs level).cg = s.cg := rfl
@[simp] theorem State.driveCs_stp (s : State) (level : Bool) : (s.driveCs level).stp = s.stp := rfl
@[simp] theorem State.driveCs_bsy (s : State) (level : Bool) : (s.driveCs level).bsy = s.bsy := rfl
@[simp] theorem State.driveCs_don (s : State) (level : Bool) : (s.driveCs level).don = s.don := rfl
@[simp] theorem State.driveCs_xst (s : State) (level : Bool) : (s.driveCs level).xst = s.xst := rfl
@[simp] theorem State.driveCs_tar (s : State) (level : Bool) : (s.driveCs level).tar = s.tar := rfl
@[simp] theorem State.driveCs_wak (s : State) (level : Bool) : (s.driveCs level).wak = s.wak := rfl
@[simp] theorem State.driveCs_cs (s : State) (level : Bool) : (s.driveCs level).cs = level := rfl
@[simp] theorem State.driveCs_geom (s : State) (level : Bool) : (s.driveCs level).geom = s.geom := rfl
@[simp] theorem State.driveCs_bm (s : State) (level : Bool) : (s.driveCs level).bm = s.bm := rfl
@[simp] theorem State.driveCs_ss (s : State) (level : Bool) : (s.driveCs level).ss = s.ss := rfl
@[simp] theorem State.driveCs_wf (s : State) (level : Bool) : (s.driveCs level).wf = s.wf := rfl
@[simp] theorem State.driveCs_trace (s : State) (level : Bool) : (s.driveCs level).trace = s.trace ++ [.csSet level] := rfl
@[simp] theorem State.driveCs_toInputs (s : State) (level : Bool) : (s.driveCs level).toInputs = s.toInputs := rfl

end Sys2Proof.Machine
end

