-- ==== Sys2Proof/Laws/Exec.lean ====
section
/-! SUPPORT. What each operation can do: one inversion lemma per shared operation and per meaning, so that a proof about
every step splits into the operations and never unfolds one. -/

namespace Sys2Proof.Machine

/-! ### The shared operations -/

theorem guarded_next {guard : Prop} [Decidable guard] {mn : String} {s t : State} {body : Result}
    (h : guarded guard mn s body = .next t) : s.Coherent ∧ guard ∧ body = .next t := by
  unfold guarded at h
  split at h
  · split at h
    · exact ⟨‹_›, ‹_›, h⟩
    · cases h
  · cases h

theorem guarded_of {guard : Prop} [Decidable guard] {mn : String} {s : State} {body : Result} (hc : s.Coherent)
    (hg : guard) : guarded guard mn s body = body := by
  simp only [guarded, if_pos hc, if_pos hg]

theorem guarded_refuses {guard : Prop} [Decidable guard] {mn : String} {s : State} {body : Result} (hc : s.Coherent)
    (hg : ¬ guard) : guarded guard mn s body = .refused (.guardFails mn) := by
  simp only [guarded, if_pos hc, if_neg hg]

theorem guarded_stuck {guard : Prop} [Decidable guard] {mn : String} {s : State} {body : Result} (hc : ¬ s.Coherent) :
    guarded guard mn s body = .fault .stuckState := by
  simp only [guarded, if_neg hc]

theorem settle_next {e : Except Fault State} {t : State} (h : settle e = .next t) : e = .ok t := by
  cases e with
  | error f => cases h
  | ok s => simp only [settle, Host.Outcome.next.injEq] at h; rw [h]

theorem needGeom_ok {s : State} {g : Geometry} (h : s.needGeom = .ok g) : s.geom = some g := by
  unfold State.needGeom at h
  split at h
  · exact (Except.ok.inj h) ▸ ‹_›
  · cases h

theorem needMemory_ok {name : MemoryName} {om : Option Memory} {m : Memory} (h : needMemory name om = .ok m) :
    om = some m := by
  cases om with
  | none => cases h
  | some m' => exact congrArg some (Except.ok.inj h)

theorem needInstance_ok {s : State} {g : Geometry} {bm ss wf : Memory} (h : needInstance s = .ok (g, bm, ss, wf)) :
    s.geom = some g ∧ s.bm = some bm ∧ s.ss = some ss ∧ s.wf = some wf := by
  unfold needInstance at h
  cases hg : s.needGeom with
  | error f => simp [hg] at h
  | ok g' =>
    cases hb : needMemory .bm s.bm with
    | error f => simp [hg, hb] at h
    | ok bm' =>
      cases hs : needMemory .ss s.ss with
      | error f => simp [hg, hb, hs] at h
      | ok ss' =>
        cases hw : needMemory .wf s.wf with
        | error f => simp [hg, hb, hs, hw] at h
        | ok wf' =>
          simp only [hg, hb, hs, hw, Except.ok.injEq, Prod.mk.injEq] at h
          obtain ⟨rfl, rfl, rfl, rfl⟩ := h
          exact ⟨needGeom_ok hg, needMemory_ok hb, needMemory_ok hs, needMemory_ok hw⟩

theorem needInstance_of {s : State} {g : Geometry} {bm ss wf : Memory} (hg : s.geom = some g) (hb : s.bm = some bm)
    (hs : s.ss = some ss) (hw : s.wf = some wf) : needInstance s = .ok (g, bm, ss, wf) := by
  simp [needInstance, State.needGeom, needMemory, hg, hb, hs, hw]

/-! ### The compositor -/

/-- What one pixel leaves: the memory it got, or the memory after one header write and one data write (R142). -/
theorem lightPixel_ok {g : Geometry} {x y : Nat} {wf wf' : Memory} (h : lightPixel g x y wf = .ok wf') :
    ∃ wf1 old, wf.write .wf (blockBase g x) (BitVec.ofNat 8 (groupOf x)) = .ok wf1 ∧
      wf1.read .wf (dataAddr g x y) = .ok old ∧ wf1.write .wf (dataAddr g x y) (old ||| dataMask g y) = .ok wf' := by
  unfold lightPixel at h
  cases h1 : wf.write .wf (blockBase g x) (BitVec.ofNat 8 (groupOf x)) with
  | error f => simp [h1] at h
  | ok wf1 =>
    cases h2 : wf1.read .wf (dataAddr g x y) with
    | error f => simp [h1, h2] at h
    | ok old => exact ⟨wf1, old, rfl, h2, by simpa [h1, h2] using h⟩

theorem pixel_ok {g : Geometry} {ss : Memory} {x y : Nat} {wf wf' : Memory} (h : pixel g ss x y wf = .ok wf') :
    wf' = wf ∨ lightPixel g x y wf = .ok wf' := by
  unfold pixel at h
  split at h
  · cases h
  · split at h
    · exact Or.inr h
    · exact Or.inl (Except.ok.inj h).symm

/-- Whatever a one-byte write keeps, BUILD keeps (R145). -/
theorem build_keeps {g : Geometry} {ss wf wf' : Memory} (P : Memory → Prop)
    (write : ∀ m m' a v, P m → m.write .wf a v = .ok m' → P m') (h : build g ss wf = .ok wf') (h0 : P wf) : P wf' := by
  refine forRange_keeps P h0 (fun y row row' hrow hy => ?_) h
  refine forRange_keeps P hrow (fun x m m' hm hx => ?_) hy
  rcases pixel_ok hx with rfl | hl
  · exact hm
  · obtain ⟨wf1, old, h1, _, h3⟩ := lightPixel_ok hl
    exact write _ _ _ _ (write _ _ _ _ hm h1) h3

theorem build_size {g : Geometry} {ss wf wf' : Memory} (h : build g ss wf = .ok wf') : wf'.size = wf.size :=
  build_keeps (fun m => m.size = wf.size) (fun _ _ _ _ hm hw => (Memory.write_size hw).trans hm) h rfl

theorem build_full {g : Geometry} {ss wf wf' : Memory} (h : build g ss wf = .ok wf') (hw : wf.full = true) :
    wf'.full = true :=
  build_keeps (fun m => m.full = true) (fun _ _ _ _ hm hw => Memory.write_full hw hm) h hw

/-- What the snapshot phase can do (R66). -/
theorem snapshotMemories_ok {g : Geometry} {bm ss wf ss' wf' : Memory} {bytes : List Byte}
    (h : snapshotMemories g bm ss wf = .ok (bytes, ss', wf')) :
    bm.readMany .bm 0 g.bb = .ok bytes ∧ ss.writeAll .ss bytes = .ok ss' ∧
      wf.writeAll .wf (List.replicate g.fb 0#8) = .ok wf' := by
  unfold snapshotMemories at h
  cases hb : bm.readMany .bm 0 g.bb with
  | error f => simp [hb] at h
  | ok bs =>
    cases hs : ss.writeAll .ss bs with
    | error f => simp [hb, hs] at h
    | ok s2 =>
      cases hw : wf.writeAll .wf (List.replicate g.fb 0#8) with
      | error f => simp [hb, hs, hw] at h
      | ok w2 =>
        simp only [hb, hs, hw, Except.ok.injEq, Prod.mk.injEq] at h
        obtain ⟨rfl, rfl, rfl⟩ := h
        exact ⟨rfl, hs, rfl⟩

/-- What both phases of COMPOSE can do over its memories (R175). -/
theorem composeMemories_ok {g : Geometry} {bm ss wf ss' wf' : Memory} {bytes : List Byte}
    (h : composeMemories g bm ss wf = .ok (bytes, ss', wf')) :
    ∃ zeroed, snapshotMemories g bm ss wf = .ok (bytes, ss', zeroed) ∧ build g ss' zeroed = .ok wf' := by
  unfold composeMemories at h
  cases hs : snapshotMemories g bm ss wf with
  | error f => simp [hs] at h
  | ok r =>
    obtain ⟨bs, s2, z⟩ := r
    cases hb : build g s2 z with
    | error f => simp [hs, hb] at h
    | ok w2 =>
      simp only [hs, hb, Except.ok.injEq, Prod.mk.injEq] at h
      obtain ⟨rfl, rfl, rfl⟩ := h
      exact ⟨z, rfl, hb⟩

/-- After COMPOSE both SS and WF are full, and no size has changed (R175). -/
theorem composeMemories_full {g : Geometry} {bm ss wf ss' wf' : Memory} {bytes : List Byte}
    (h : composeMemories g bm ss wf = .ok (bytes, ss', wf')) :
    ss'.full = true ∧ ss'.size = ss.size ∧ wf'.full = true ∧ wf'.size = wf.size := by
  obtain ⟨zeroed, hs, hb⟩ := composeMemories_ok h
  obtain ⟨_, hss, hwf⟩ := snapshotMemories_ok hs
  have h1 := Memory.writeAll_full hss
  have h2 := Memory.writeAll_full hwf
  exact ⟨h1.1, h1.2, build_full hb h2.1, (build_size hb).trans h2.2⟩

/-! ### The meanings -/

theorem execAttach_next {w h n : Option Nat} {a : Alloc} {s t : State} (hx : execAttach w h n a s = .next t) :
    s.Coherent ∧ GuardAttach s ∧ t = attachState w h n a s := by
  obtain ⟨hc, hg, hb⟩ := guarded_next hx
  exact ⟨hc, hg, (Host.Outcome.next.inj hb).symm⟩

/-- What the derivation can answer (R128). -/
theorem derive_ok {p : Platform} {w h n : Nat} {g : Geometry} (hd : derive p w h n = .ok g) :
    Valid w h n ∧ g = geometryOf w h n := by
  unfold derive at hd
  split at hd
  · unfold withinCapacity at hd
    split at hd
    · cases hd
    · split at hd
      · cases hd
      · exact ⟨‹_›, (Except.ok.inj hd).symm⟩
  · cases hd

theorem derive_error {p : Platform} {w h n : Nat} {r : AttachResult} (hd : derive p w h n = .error r) : r ≠ .ok := by
  unfold derive at hd
  split at hd
  · unfold withinCapacity at hd
    split at hd
    · exact Except.error.inj hd ▸ AttachResult.noConfusion
    · split at hd
      · exact Except.error.inj hd ▸ AttachResult.noConfusion
      · cases hd
  · exact Except.error.inj hd ▸ AttachResult.noConfusion

/-- The ways an ATTACH can end (R212): with the code of the derivation, with the allocator's failure, or attached. -/
theorem attachState_cases (w h n : Option Nat) (a : Alloc) (s : State) :
    (∃ r, r ≠ .ok ∧ attachState w h n a s = attachFailed s r) ∨
    ∃ g, derive s.platform (configured w defaultWidth) (configured h defaultHeight) (configured n defaultPanelCount)
        = .ok g ∧ a = .ok ∧ attachState w h n a s = (warnLine (attachFields s g)).emit (.attached .ok) := by
  unfold attachState
  cases hd : derive s.platform (configured w defaultWidth) (configured h defaultHeight)
      (configured n defaultPanelCount) with
  | error r =>
    exact Or.inl ⟨r, derive_error hd, rfl⟩
  | ok g =>
    cases a with
    | fail => exact Or.inl ⟨.eNomem, AttachResult.noConfusion, rfl⟩
    | ok => exact Or.inr ⟨g, rfl, rfl, rfl⟩

theorem execDetach_next {s t : State} (hx : execDetach s = .next t) :
    s.Coherent ∧ GuardDetach s ∧ t = detachState s := by
  obtain ⟨hc, hg, hb⟩ := guarded_next hx
  exact ⟨hc, hg, (Host.Outcome.next.inj hb).symm⟩

theorem execWrite_next {a : Nat} {d : Byte} {s t : State} (hx : execWrite a d s = .next t) :
    s.Coherent ∧ GuardWrite s ∧ ∃ g m m', s.geom = some g ∧ a < g.bb ∧ s.bm = some m ∧ m.write .bm a d = .ok m' ∧
      t = { s with bm := some m' } := by
  obtain ⟨hc, hg, hb⟩ := guarded_next hx
  refine ⟨hc, hg, ?_⟩
  unfold writeBody at hb
  cases hge : s.needGeom with
  | error f => simp [hge] at hb
  | ok g =>
    simp only [hge] at hb
    split at hb
    · have hw := settle_next hb
      unfold writeBitmap at hw
      cases hm : needMemory .bm s.bm with
      | error f => simp [hm] at hw
      | ok m =>
        cases hmw : m.write .bm a d with
        | error f => simp [hm, hmw] at hw
        | ok m' =>
          simp only [hm, hmw, Except.ok.injEq] at hw
          exact ⟨g, m, m', needGeom_ok hge, ‹_›, needMemory_ok hm, hmw, hw.symm⟩
    · cases hb

theorem execStart_next {s t : State} (hx : execStart s = .next t) :
    s.Coherent ∧ GuardStart s ∧ t = { s with st := .compose } := by
  obtain ⟨hc, hg, hb⟩ := guarded_next hx
  exact ⟨hc, hg, (Host.Outcome.next.inj hb).symm⟩

theorem execCompose_next {s t : State} (hx : execCompose s = .next t) :
    s.Coherent ∧ GuardCompose s ∧ ∃ g bm ss wf bytes ss' wf', s.geom = some g ∧ s.bm = some bm ∧ s.ss = some ss ∧
      s.wf = some wf ∧ composeMemories g bm ss wf = .ok (bytes, ss', wf') ∧ t = composeFields s bytes ss' wf' := by
  obtain ⟨hc, hg, hb⟩ := guarded_next hx
  refine ⟨hc, hg, ?_⟩
  have hs := settle_next hb
  unfold composeState at hs
  cases hi : needInstance s with
  | error f => simp [hi] at hs
  | ok r =>
    obtain ⟨g, bm, ss, wf⟩ := r
    cases hm : composeMemories g bm ss wf with
    | error f => simp [hi, hm] at hs
    | ok r =>
      obtain ⟨bytes, ss', wf'⟩ := r
      simp only [hi, hm, Except.ok.injEq] at hs
      obtain ⟨h1, h2, h3, h4⟩ := needInstance_ok hi
      exact ⟨g, bm, ss, wf, bytes, ss', wf', h1, h2, h3, h4, hm, hs.symm⟩

theorem execSendIssue_next {s t : State} (hx : execSendIssue s = .next t) :
    s.Coherent ∧ GuardSendIssue s ∧ ∃ g wf bytes, s.geom = some g ∧ s.wf = some wf ∧
      groupSlice g s.cg wf = .ok bytes ∧ t = sendIssueFields s bytes := by
  obtain ⟨hc, hg, hb⟩ := guarded_next hx
  refine ⟨hc, hg, ?_⟩
  have hs := settle_next hb
  unfold sendIssueState at hs
  cases hge : s.needGeom with
  | error f => simp [hge] at hs
  | ok g =>
    cases hw : needMemory .wf s.wf with
    | error f => simp [hge, hw] at hs
    | ok wf =>
      cases hsl : groupSlice g s.cg wf with
      | error f => simp [hge, hw, hsl] at hs
      | ok bytes =>
        simp only [hge, hw, hsl, Except.ok.injEq] at hs
        exact ⟨g, wf, bytes, needGeom_ok hge, needMemory_ok hw, hsl, hs.symm⟩

theorem execSendDone_next {s t : State} (hx : execSendDone s = .next t) :
    s.Coherent ∧ GuardSendDone s ∧ t = sendDoneState s := by
  obtain ⟨hc, hg, hb⟩ := guarded_next hx
  exact ⟨hc, hg, (Host.Outcome.next.inj hb).symm⟩

theorem execExpire_next {s t : State} (hx : execExpire s = .next t) :
    s.Coherent ∧ GuardExpire s ∧ t = expireState s := by
  obtain ⟨hc, hg, hb⟩ := guarded_next hx
  exact ⟨hc, hg, (Host.Outcome.next.inj hb).symm⟩

theorem execAdvance_next {s t : State} (hx : execAdvance s = .next t) :
    s.Coherent ∧ GuardAdvance s ∧ t = advanceState s := by
  obtain ⟨hc, hg, hb⟩ := guarded_next hx
  exact ⟨hc, hg, (Host.Outcome.next.inj hb).symm⟩

theorem execDrain_next {s t : State} (hx : execDrain s = .next t) :
    s.Coherent ∧ GuardDrain s ∧ t = drainState s := by
  obtain ⟨hc, hg, hb⟩ := guarded_next hx
  exact ⟨hc, hg, (Host.Outcome.next.inj hb).symm⟩

theorem execBusOk_next {s t : State} (hx : execBusOk s = .next t) :
    s.Coherent ∧ GuardBusOk s ∧ t = completeTransfer false s := by
  obtain ⟨hc, hg, hb⟩ := guarded_next hx
  exact ⟨hc, hg, (Host.Outcome.next.inj hb).symm⟩

theorem execBusErr_next {s t : State} (hx : execBusErr s = .next t) :
    s.Coherent ∧ GuardBusErr s ∧ t = completeTransfer true s := by
  obtain ⟨hc, hg, hb⟩ := guarded_next hx
  exact ⟨hc, hg, (Host.Outcome.next.inj hb).symm⟩

/-- An operation that takes its step was in a coherent state that meets its guard (R38, R100, R104). -/
theorem exec_guarded {i : Instr} {s t : State} (h : exec i s = .next t) : s.Coherent ∧ guardOf i s := by
  cases i with
  | attach w h' n a => exact ⟨(execAttach_next h).1, (execAttach_next h).2.1⟩
  | detach => exact ⟨(execDetach_next h).1, (execDetach_next h).2.1⟩
  | write a d => exact ⟨(execWrite_next h).1, (execWrite_next h).2.1⟩
  | start => exact ⟨(execStart_next h).1, (execStart_next h).2.1⟩
  | compose => exact ⟨(execCompose_next h).1, (execCompose_next h).2.1⟩
  | sendIssue => exact ⟨(execSendIssue_next h).1, (execSendIssue_next h).2.1⟩
  | sendDone => exact ⟨(execSendDone_next h).1, (execSendDone_next h).2.1⟩
  | expire => exact ⟨(execExpire_next h).1, (execExpire_next h).2.1⟩
  | advance => exact ⟨(execAdvance_next h).1, (execAdvance_next h).2.1⟩
  | drain => exact ⟨(execDrain_next h).1, (execDrain_next h).2.1⟩
  | busOk => exact ⟨(execBusOk_next h).1, (execBusOk_next h).2.1⟩
  | busErr => exact ⟨(execBusErr_next h).1, (execBusErr_next h).2.1⟩

/-- Only a WRITE is refused for its address (R216). -/
theorem exec_not_writeOutOfRange {i : Instr} {s : State} (hi : ∀ a d, i ≠ .write a d) (a : Nat) :
    exec i s ≠ .refused (.writeOutOfRange a) := by
  have settled : ∀ e : Except Fault State, settle e ≠ .refused (.writeOutOfRange a) := fun e h => by cases e <;> cases h
  have stepped : ∀ t : State, (.next t : Result) ≠ .refused (.writeOutOfRange a) := fun _ h => by cases h
  have body : ∀ (guard : Prop) [Decidable guard] (mn : String) (r : Result),
      r ≠ .refused (.writeOutOfRange a) → guarded guard mn s r ≠ .refused (.writeOutOfRange a) := by
    intro guard _ mn r hr h
    unfold guarded at h
    split at h
    · split at h
      · exact hr h
      · cases h
    · cases h
  cases i with
  | write b d => exact absurd rfl (hi b d)
  | compose => exact body _ _ _ (settled _)
  | sendIssue => exact body _ _ _ (settled _)
  | attach w h n al => exact body _ _ _ (stepped _)
  | detach => exact body _ _ _ (stepped _)
  | start => exact body _ _ _ (stepped _)
  | sendDone => exact body _ _ _ (stepped _)
  | expire => exact body _ _ _ (stepped _)
  | advance => exact body _ _ _ (stepped _)
  | drain => exact body _ _ _ (stepped _)
  | busOk => exact body _ _ _ (stepped _)
  | busErr => exact body _ _ _ (stepped _)

/-! ### The step -/

/-- Fetching takes the request out of the inbox or counts a draw, and touches nothing else. -/
theorem fetch_frame (s : State) : ∃ requests k, (fetch s).2 = { s with inbox := requests, draws := k } := by
  unfold fetch
  split
  · exact ⟨_, _, rfl⟩
  · exact ⟨_, _, rfl⟩

/-- What a request can do: an operation's step, or nothing (R103, R104). -/
theorem present_next {r : Request} {s t : State} (h : present r s = .next t) :
    t = s ∨ ∃ i, operationOf r s = some i ∧ exec i s = .next t := by
  unfold present at h
  split at h
  · split at h
    · rename_i i hi
      unfold takeStep at h
      split at h
      · exact Or.inl (Host.Outcome.next.inj h).symm
      · exact Or.inr ⟨i, hi, h⟩
    · exact Or.inl (Host.Outcome.next.inj h).symm
  · cases h

/-- What a step can do: take a request and nothing more, or take it and run one operation (R72, R103). -/
theorem step_next {s t : State} (h : step s = .next t) :
    ∃ requests k, t = { s with inbox := requests, draws := k } ∨
      ∃ i, exec i { s with inbox := requests, draws := k } = .next t := by
  obtain ⟨requests, k, hf⟩ := fetch_frame s
  unfold step at h
  rw [hf] at h
  refine ⟨requests, k, ?_⟩
  rcases present_next h with h | ⟨i, _, h⟩
  · exact Or.inl h
  · exact Or.inr ⟨i, h⟩

/-! ### Runs -/

/-- Every state of a run is coherent (R38). -/
theorem IsRun.coherent {asks : Nat → Request} {states : Nat → State} (h : IsRun asks states) (k : Nat) :
    (states k).Coherent := by
  have hk := h k
  unfold present at hk
  split at hk
  · assumption
  · cases hk

/-- What a place of a run can do: nothing, or the step of the operation its request takes (R72, R103). -/
theorem IsRun.place {asks : Nat → Request} {states : Nat → State} (h : IsRun asks states) (k : Nat) :
    states (k + 1) = states k ∨ ∃ i, Takes asks states k i ∧ exec i (states k) = .next (states (k + 1)) :=
  present_next (h k)

/-- An operation that a run takes has its step there; a WRITE may be refused instead (R216). -/
theorem IsRun.takes {asks : Nat → Request} {states : Nat → State} (h : IsRun asks states) {k : Nat} {i : Instr}
    (ht : Takes asks states k i) (hi : ∀ a d, i ≠ .write a d) : exec i (states k) = .next (states (k + 1)) := by
  have hk := h k
  simp only [present, if_pos (h.coherent k), show operationOf (asks k) (states k) = some i from ht] at hk
  unfold takeStep at hk
  split at hk
  · rename_i a he
    exact absurd he (exec_not_writeOutOfRange hi a)
  · exact hk

end Sys2Proof.Machine
end

