-- ==== Sys2Proof/Laws/PerInstr.lean ====
section
/-! SUPPORT. One lemma per operation about its row (R98 to R100): the match word lies inside the mask, and the row always
looks at the agent and the request fields. -/

namespace Sys2Proof.Laws.RowWord

/-- The row of `i` asks nothing of a "don't care" bit, and its mask covers AG and RQ. -/
def Statement (i : Instr) : Prop :=
  matchWord i &&& maskWord i = matchWord i ∧ maskWord i &&& 0xFE00#16 = 0xFE00#16

theorem attach (w h n : Option Nat) (a : Alloc) : Statement (.attach w h n a) := by
  constructor <;> simp only [matchWord, maskWord] <;> decide
theorem detach : Statement .detach := by constructor <;> decide
theorem write (a : Nat) (d : Byte) : Statement (.write a d) := by
  constructor <;> simp only [matchWord, maskWord] <;> decide
theorem start : Statement .start := by constructor <;> decide
theorem compose : Statement .compose := by constructor <;> decide
theorem sendIssue : Statement .sendIssue := by constructor <;> decide
theorem sendDone : Statement .sendDone := by constructor <;> decide
theorem expire : Statement .expire := by constructor <;> decide
theorem advance : Statement .advance := by constructor <;> decide
theorem drain : Statement .drain := by constructor <;> decide
theorem busOk : Statement .busOk := by constructor <;> decide
theorem busErr : Statement .busErr := by constructor <;> decide

end Sys2Proof.Laws.RowWord
end

