-- ==== Sys2Proof/Laws/Selector.lean ====
section
/-! SUPPORT. The fields of the selector word (R98), each read back from the word, and the word a placed request forms. -/

namespace Sys2Proof.Machine

@[simp] theorem agentField_selectorOf (s : State) (ag : BitVec 3) (rq : BitVec 4) :
    agentField (selectorOf s ag rq) = ag := by
  apply BitVec.eq_of_getLsbD_eq
  intro k hk
  simp only [agentField, selectorOf, BitVec.getLsbD_extractLsb', BitVec.getLsbD_append]
  interval_cases k <;> simp

@[simp] theorem requestField_selectorOf (s : State) (ag : BitVec 3) (rq : BitVec 4) :
    requestField (selectorOf s ag rq) = rq := by
  apply BitVec.eq_of_getLsbD_eq
  intro k hk
  simp only [requestField, selectorOf, BitVec.getLsbD_extractLsb', BitVec.getLsbD_append]
  interval_cases k <;> simp

@[simp] theorem sched_selectorOf (s : State) (ag : BitVec 3) (rq : BitVec 4) :
    (selectorOf s ag rq).extractLsb' 0 3 = schedCode s.st := by
  apply BitVec.eq_of_getLsbD_eq
  intro k hk
  simp only [selectorOf, BitVec.getLsbD_extractLsb', BitVec.getLsbD_append]
  interval_cases k <;> simp

theorem flags_selectorOf (s : State) (ag : BitVec 3) (rq : BitVec 4) :
    (selectorOf s ag rq).getLsbD 3 = s.att ∧ (selectorOf s ag rq).getLsbD 4 = s.stp ∧
      (selectorOf s ag rq).getLsbD 5 = s.bsy ∧ (selectorOf s ag rq).getLsbD 6 = s.don ∧
      (selectorOf s ag rq).getLsbD 7 = s.tar ∧ (selectorOf s ag rq).getLsbD 8 = s.wak := by
  simp only [selectorOf, BitVec.getLsbD_append]
  simp

@[simp] theorem schedOfCode_schedCode (st : SchedState) : schedOfCode (schedCode st) = st := by
  cases st <;> rfl

@[simp] theorem schedCode_schedOfCode (c : BitVec 3) : schedCode (schedOfCode c) = c := by
  revert c
  decide

/-- A selector is its agent and request fields with the state fields below them (R98). -/
theorem selectorOf_eq_iff (s : State) (w : Selector) :
    selectorOf s (agentField w) (requestField w) = w ↔
      schedCode s.st = w.extractLsb' 0 3 ∧ s.att = w.getLsbD 3 ∧ s.stp = w.getLsbD 4 ∧ s.bsy = w.getLsbD 5 ∧
        s.don = w.getLsbD 6 ∧ s.tar = w.getLsbD 7 ∧ s.wak = w.getLsbD 8 := by
  constructor
  · intro h
    have hf := flags_selectorOf s (agentField w) (requestField w)
    have hs := sched_selectorOf s (agentField w) (requestField w)
    rw [h] at hf hs
    exact ⟨hs.symm, hf.1.symm, hf.2.1.symm, hf.2.2.1.symm, hf.2.2.2.1.symm, hf.2.2.2.2.1.symm, hf.2.2.2.2.2.symm⟩
  · rintro ⟨hs, h3, h4, h5, h6, h7, h8⟩
    apply BitVec.eq_of_getLsbD_eq
    intro k hk
    simp only [selectorOf, hs, h3, h4, h5, h6, h7, h8, agentField, requestField, BitVec.getLsbD_append]
    interval_cases k <;> simp

/-- A word placed as the next request is the word the next step forms (log entry 11). -/
theorem selectorOf_withSelectorFields (s : State) (w : Selector) :
    selectorOf (withSelectorFields s w) (agentField w) (requestField w) = w := by
  rw [selectorOf_eq_iff]
  simp [withSelectorFields]

end Sys2Proof.Machine
end

