-- ==== Sys2Proof/Tests/Slice0.lean ====
section
/-! SUPPORT. The model's own tests: expected results are the vectors of 95_test_vectors.md (V<n>, P<n>) or worked by hand
from the rule named; and one witness per hypothesis of the statements, `test_witness_<statement>`. -/

namespace Sys2Proof.Tests

open Sys2Proof.Machine

/-! ### Small states -/

/-- A platform that bounds nothing and whose line does not sleep (P2's "unbounded"). -/
def unbounded : Platform :=
  { busMaxXfer := none, maxBitmapBytes := none, maxFrameBytes := none, pulseLineCanSleep := false }

/-- Reset on that platform. -/
def fresh : State := { State.reset with platform := unbounded }

/-- The smallest accepted geometry: BB = 1, GB = 3, FB = 12. -/
def tiny : Geometry := geometryOf 8 1 1

/-- One bitmap byte. -/
def oneByte (b : Byte) : Memory := { size := 1, cells := [(0, b)] }

/-- A Wire Frame of the tiny geometry whose byte `k` is `k`. -/
def counting : Memory := { size := 12, cells := numberFrom 0 ((List.range 12).map (BitVec.ofNat 8)) }

/-- Attached, IDLE, pixel 0 lit. -/
def idle : State :=
  { fresh with
    att := true, geom := some tiny, bm := some (oneByte 1), ss := some (oneByte 1), wf := some counting }

def composing : State := { idle with st := .compose }
def sending (g : BitVec 2) : State := { idle with st := .send, cg := g }
def inTransfer (g : BitVec 2) : State := { sending g with bsy := true }
def transferred (g : BitVec 2) (failed : Bool) : State := { sending g with don := true, xst := failed }
def pulsing (g : BitVec 2) : State := { idle with st := .pulseWait, cg := g, tar := true, cs := false }
def advancing (g : BitVec 2) : State := { idle with st := .advance, cg := g, wak := true }
def stopped (s : State) : State := { s with stp := true }

/-- What a view shows of the state after a step, where there is one. -/
def after {α : Type} (r : Result) (view : State → α) : Option α :=
  match r with
  | .next t => some (view t)
  | .fault _ => none
  | .refused _ => none

/-- The bytes a memory lists, where there is one. -/
def bytesOf (m : Option Memory) : List Byte :=
  match m with
  | some m => m.cells.map Prod.snd
  | none => []

/-! ### Well-formedness -/

theorem test_write_out_of_range_is_ill_formed : (Instr.write 304 0xFF).wellFormed 304 = false := by decide
theorem test_write_last_byte_is_well_formed : (Instr.write 303 0x80).wellFormed 304 = true := by decide

/-! ### Decoding: a word of each row, written out from R98 to R100 (bits 15..12 RQ, 11..9 AG, 8 WAK, 7 TAR, 6 DON,
5 BSY, 4 STP, 3 ATT, 2..0 ST) -/

def arbitraryOperands : Operands :=
  { cfgWidth := some 32, cfgHeight := none, cfgPanelCount := some 0, alloc := .fail, addr := 7, data := 0x5A }

theorem test_decode_attach :
    decode 0b0001_100_0_0_0_0_0_0_000 arbitraryOperands = .ok (.attach (some 32) none (some 0) .fail) := by decide
theorem test_decode_detach : decode 0b0010_100_0_1_0_0_0_1_011 arbitraryOperands = .ok .detach := by decide
theorem test_decode_write : decode 0b0001_011_0_0_0_1_1_1_010 arbitraryOperands = .ok (.write 7 0x5A) := by decide
theorem test_decode_start : decode 0b0000_000_0_0_0_0_0_1_000 arbitraryOperands = .ok .start := by decide
theorem test_decode_compose : decode 0b0000_000_0_0_0_0_0_1_001 arbitraryOperands = .ok .compose := by decide
theorem test_decode_sendIssue : decode 0b0000_000_0_0_0_0_0_1_010 arbitraryOperands = .ok .sendIssue := by decide
theorem test_decode_sendDone : decode 0b0000_000_0_0_1_0_0_1_010 arbitraryOperands = .ok .sendDone := by decide
theorem test_decode_expire : decode 0b0001_001_0_1_0_0_0_1_011 arbitraryOperands = .ok .expire := by decide
theorem test_decode_advance : decode 0b0000_000_1_0_0_0_0_1_100 arbitraryOperands = .ok .advance := by decide
theorem test_decode_drain : decode 0b0000_000_1_0_0_0_1_1_100 arbitraryOperands = .ok .drain := by decide
theorem test_decode_busOk : decode 0b0001_010_0_0_0_1_1_1_010 arbitraryOperands = .ok .busOk := by decide
theorem test_decode_busErr : decode 0b0010_010_0_0_0_1_0_1_010 arbitraryOperands = .ok .busErr := by decide

/-- V17: the words that match nothing, each with its name. -/
theorem test_decode_rejects :
    [0x002A, 0x008B, 0x003A, 0x0000, 0x000D, 0x121B, 0x140A, 0x342A, 0x1809, 0x281B, 0x3800, 0x1600, 0x1A0A, 0x006A].map
        (fun w : Selector => decode w Operands.zero) =
      [.error .workWaits, .error .workWaits, .error .workWaits, .error .workWaits, .error .reservedState,
        .error .guardFails, .error .guardFails, .error .reservedRequest, .error .guardFails, .error .guardFails,
        .error .reservedRequest, .error .guardFails, .error .reservedAgent, .error .busyAndDone] := by rfl

/-- The encoder writes each row's own word with its "don't care" bits 0 (R100). -/
theorem test_encode :
    (encode (.write 303 0x80)).1 = 0x1608 ∧ (encode .expire).1 = 0x128B ∧
      (encode (.attach none (some 19) none .ok)).1 = 0x1800 := by decide

theorem test_decodeTableWord :
    decodeTableWord 16 0x1608 = some (.write 0 0) ∧ decodeTableWord 16 0x3800 = none ∧
      decodeTableWord 8 0x18 = none := by decide

/-- A placed word runs as the first step: V18's SEND.ISSUE with CG = 0 on an all-zero frame of the small geometry. -/
theorem test_placed_sendIssue_runs :
    after (step (State.reset.withFetchWord 16 0x000A)) (fun t => (t.bsy, t.trace)) =
      some (true, [.csSet true, .xfer 0 (List.replicate 12 0#8)]) := by decide +kernel

/-- A placed ATTACH runs as the first step after reset, whatever the platform (R271). -/
theorem test_placed_attach_runs :
    (after (step (State.reset.withFetchWord 16 0x1800)) fun t => t.inbox).isSome = true := by decide

/-! ### Geometry -/

/-- V10: rows (R, PC, CPG, PBB, GB, FB, BB). -/
theorem test_derive_rows :
    [(128, 19, 16), (128, 19, 1), (32, 3, 4), (24, 5, 1), (48, 9, 6), (96, 8, 2)].map (fun i : Nat × Nat × Nat =>
        let g := geometryOf i.1 i.2.1 i.2.2
        (decide (Valid i.1 i.2.1 i.2.2), [g.r, g.pc, g.cpg, g.pbb, g.gb, g.fb, g.bb])) =
      [(true, [3, 8, 2, 7, 112, 448, 304]), (true, [3, 128, 32, 97, 97, 388, 304]), (true, [1, 8, 2, 3, 12, 48, 12]),
        (true, [1, 24, 6, 7, 7, 28, 15]), (true, [2, 8, 2, 5, 30, 120, 54]), (true, [1, 48, 12, 13, 26, 104, 96])] := by
  decide

/-- V10: the rejected rows. -/
theorem test_derive_rejects :
    ∀ i ∈ [(128, 19, 3), (130, 19, 4), (8, 8, 4), (8, 8, 2), (16, 8, 4), (24, 8, 2), (128, 19, 32), (0, 19, 4),
      (128, 0, 4), (128, 19, 0)], derive unbounded i.1 i.2.1 i.2.2 = .error .eConfig := by
  decide

/-- V11: the capacities at their boundaries, and the order of the checks; the three outcomes of DeriveOutcomes. -/
theorem test_capacities :
    (derive { unbounded with busMaxXfer := some 100 } 128 19 4).isOk = true ∧
      derive { unbounded with busMaxXfer := some 99, maxFrameBytes := some 1 } 128 19 4 = .error .eConfig ∧
      (derive { unbounded with maxFrameBytes := some 400 } 128 19 4).isOk = true ∧
      derive { unbounded with maxFrameBytes := some 399 } 128 19 4 = .error .eNomem ∧
      derive { unbounded with maxBitmapBytes := some 303 } 128 19 4 = .error .eNomem ∧
      derive { unbounded with maxFrameBytes := some 1 } 128 19 3 = .error .eConfig := by decide

/-! ### Compositor -/

/-- V12: (idx, base, data_addr, mask) at the corners of the default display, and a register boundary. -/
theorem test_addresses_default :
    [(0, 0), (127, 18), (4, 0), (63, 5), (64, 7), (126, 17)].map (fun p : Nat × Nat =>
        let g := geometryOf 128 19 4
        (sampleIndex g p.1 p.2, blockBase g p.1, dataAddr g p.1 p.2, dataMask g p.2)) =
      [(127, 0, 6, 0x20), (2304, 375, 394, 0x80), (123, 0, 3, 0x20), (704, 325, 345, 0x04), (959, 50, 55, 0x10),
        (2177, 275, 294, 0x40)] := by decide

/-- V1: only `BM[15] = 0x80`; pixel (0, 0) writes `WF[6] = 0x20`. -/
theorem test_v1_pixel :
    let ss : Memory := { size := 304, cells := numberFrom 0 ((List.range 304).map fun k => if k = 15 then 0x80 else 0) }
    (match pixel (geometryOf 128 19 4) ss 0 0 (Memory.zeros 400) with
      | .ok wf => wf.cells.filter (fun c => c.2 != 0)
      | .error _ => []) = [(6, 0x20)] := by decide +kernel

/-- V15: `BM[k] = k` on the small geometry. -/
theorem test_v15_ramp :
    (match build smallGeometry { size := 32, cells := numberFrom 0 ((List.range 32).map (BitVec.ofNat 8)) }
        (Memory.zeros 48) with
      | .ok wf => bytesOf (some wf)
      | .error _ => []) =
      [0, 0xCC, 0, 0, 0xCC, 0, 0, 0xCC, 0, 0, 0xCC, 0, 1, 0xAA, 0, 1, 0xAA, 0, 1, 0xAA, 0, 1, 0xAA, 0, 2, 0xFF, 0, 2, 0xFF,
        0, 0, 0, 0, 0, 0, 0, 3, 0xFF, 0xF0, 3, 0, 0xF0, 3, 0xFF, 0xF0, 3, 0, 0xF0] := by decide +kernel

/-- V14: rows of the inverse mapping, a header and a padding bit. -/
theorem test_v14_inverse :
    [(396, 5), (4, 7), (76, 4), (399, 5), (100, 3), (6, 4)].map (fun p : Nat × Nat =>
        (originOf (geometryOf 128 19 4) p.1 p.2, originIndex (geometryOf 128 19 4) p.1 p.2)) =
      [(some (127, 0), some 0), (some (0, 18), some 2431), (some (100, 15), some 1947), (some (123, 0), some 4),
        (none, none), (none, none)] := by decide

/-! ### One step each (V18) -/

/-- V11: defaults with a line that can sleep. -/
theorem test_attach :
    after (exec (.attach none none none .ok)
        { fresh with platform := { unbounded with pulseLineCanSleep := true } })
      (fun t => (t.att, t.geom.map (·.fb), t.ss.map (·.size), t.trace)) =
      some (true, some 400, some 304, [.warnLineCanSleep, .attached .ok]) := by rfl

/-- V11: a present 0 is not defaulted. -/
theorem test_attach_zero_panels :
    after (exec (.attach none none (some 0) .ok) State.reset) (fun t => (t.att, t.trace)) =
      some (false, [.attached .eConfig]) := by decide

theorem test_detach :
    after (exec .detach (pulsing 0)) (fun t => (t.stp, t.tar, t.cs, t.trace)) =
      some (true, false, true, [.timerCancel, .csSet true]) := by decide

theorem test_write_while_stopped :
    after (exec (.write 0 0x81) (stopped idle)) (fun t => bytesOf t.bm) = some [0x81] := by decide

theorem test_start : after (exec .start idle) (fun t => (t.st, t.trace)) = some (.compose, []) := by decide

/-- By hand from R141: pixel 0 of an 8-wide, 1-high display is display column 7: group 3, column 0, bit 7. -/
theorem test_compose :
    after (exec .compose { composing with cg := 2 }) (fun t => (t.st, t.cg, bytesOf t.ss, bytesOf t.wf, t.trace)) =
      some (.send, 0, [1], [0, 0, 0, 0, 0, 0, 0, 0, 0, 3, 0x80, 0], [.snapshot [1]]) := by decide +kernel

theorem test_sendIssue :
    after (exec .sendIssue (sending 1)) (fun t => (t.bsy, t.cs, t.trace)) =
      some (true, true, [.csSet true, .xfer 1 [3, 4, 5]]) := by decide +kernel

theorem test_sendDone_after_failure :
    after (exec .sendDone (transferred 2 true)) (fun t => (t.st, [t.don, t.cs, t.tar, t.xst], t.trace)) =
      some (.pulseWait, [false, false, true, true], [.logXferFail 2, .csSet false, .timerArm 2]) := by decide

theorem test_expire :
    after (exec .expire (pulsing 3)) (fun t => (t.st, t.cg, [t.tar, t.cs, t.wak], t.trace)) =
      some (.advance, 3, [false, true, true], [.timerExpire 3, .csSet true]) := by decide

theorem test_advance_wraps :
    after (exec .advance (advancing 3)) (fun t => (t.st, t.cg, t.wak)) = some (.compose, 0, false) := by decide

theorem test_advance :
    after (exec .advance (advancing 2)) (fun t => (t.st, t.cg, t.wak)) = some (.send, 3, false) := by decide

theorem test_drain_logs :
    after (exec .drain (stopped (transferred 1 true))) id =
      some { fresh with trace := [.logXferFail 1, .detached] } := by decide

theorem test_busOk :
    after (exec .busOk (inTransfer 1)) (fun t => (t.bsy, t.don, t.xst, t.trace)) =
      some (false, true, false, [.xferEnd 1 false]) := by decide

theorem test_busErr_while_stopped :
    after (exec .busErr (stopped (inTransfer 3))) (fun t => (t.bsy, t.don, t.xst, t.trace)) =
      some (false, true, true, [.xferEnd 3 true]) := by decide

/-- P4: after the DETACH the ADVANCE line takes no step, the DRAIN line does. -/
theorem test_line_of_another_row_takes_no_step :
    operationOf (.line .advance) (stopped (advancing 0)) = none ∧
      operationOf (.line .drain) (stopped (advancing 0)) = some .drain := by decide

/-- Log entry 5: R37's six clauses alone are not kept by DRAIN. -/
theorem test_R37_alone_is_not_inductive :
    let s := stopped { pulsing 0 with tar := false }
    s.Coherent ∧ after (exec .drain s) (fun t => decide t.Coherent) = some false := by decide

/-- By hand from R283: unattached with only a WRITE waiting, a run is over; with an ATTACH waiting it is not. -/
theorem test_runOver :
    State.RunOver { State.reset with inbox := [.line (.write 0 1)] } ∧
      ¬ State.RunOver { State.reset with inbox := [.line (.attach none none none .ok)] } ∧ ¬ State.RunOver idle := by
  decide

/-- An order that reverses the byte: the line carries bit 7 first (R62). -/
theorem test_lineBits_msb_first :
    lineBits Fin.revPerm 0xC1 = [true, true, false, false, false, false, false, true] := by decide

/-! ### Witnesses: the hypotheses of every statement can be met -/

theorem demo_inv {s : State} (hc : s.Coherent) (hs : s.StoppedIsHigh) (ha : s.att = true)
    (h : s.platform = unbounded ∧ s.geom = some tiny ∧ s.bm = some (oneByte 1) ∧ s.ss = some (oneByte 1) ∧
      s.wf = some counting) : s.Inv := by
  obtain ⟨hp, hg, hb, hss, hw⟩ := h
  refine ⟨hc, hs, fun h0 => ?_, fun _ => ⟨_, _, _, _, hg, hb, hss, hw, ?_⟩⟩
  · rw [ha] at h0
    cases h0
  · refine ⟨by rw [hp]; rfl, rfl, rfl, rfl, rfl, rfl, rfl, fun _ => rfl, fun _ => by decide⟩

theorem test_witness_DecodeOfEncodeWithAnyFill :
    (Instr.write 303 0).wellFormed 304 = true ∧ ∀ bb, Instr.drain.wellFormed bb = true := ⟨by decide, fun _ => rfl⟩

theorem test_witness_NoSelectorMatchesTwoRows :
    Instr.drain ∈ operations Operands.zero ∧ rowMatches 0x0018 .drain = true := by decide

theorem test_witness_ReservedRequestsSelectNothing :
    requestKnown 5 0 = false ∧ requestKnown 7 1 = false ∧ requestKnown 2 3 = false ∧ requestKnown 0 1 = false := by
  decide

theorem test_witness_WorkSelectsDrainAfterDetach : GuardDrain (stopped idle) := by decide

theorem test_witness_StepRunsTheSelectedOperation :
    let s := { idle with inbox := [.line .start] }
    s.inbox = [.line .start] ∧ State.reset.inbox = [] ∧ fetch s = (.line .start, idle) ∧ idle.Coherent ∧
      operationOf (.line .start) idle = some .start ∧ ∀ a, exec .start idle ≠ .refused (.writeOutOfRange a) :=
  ⟨rfl, rfl, rfl, by decide, by decide, fun _ h => by cases h⟩

theorem test_witness_RefusedRequestLeavesTheBlock :
    let r : Request := .raw 3 1 { Operands.zero with addr := 1 }
    fetch { inTransfer 0 with inbox := [.raw 0 0 Operands.zero] } = (.raw 0 0 Operands.zero, inTransfer 0) ∧
      (inTransfer 0).Coherent ∧ operationOf (.raw 0 0 Operands.zero) (inTransfer 0) = none ∧
      fetch { idle with inbox := [r] } = (r, idle) ∧ idle.Coherent ∧ operationOf r idle = some (.write 1 0) ∧
      exec (.write 1 0) idle = .refused (.writeOutOfRange 1) :=
  ⟨rfl, by decide, by decide, rfl, by decide, by decide, rfl⟩

/-- A state for each clause of R37 that fails. -/
theorem test_witness_IncoherentStateIsStuck :
    ∀ s ∈ [{ State.reset with cs := false }, { inTransfer 0 with don := true }, { pulsing 0 with tar := false },
      { advancing 0 with wak := false }, { idle with cs := false }, { idle with st := .reserved5 },
      { idle with st := .reserved7 }], ¬ s.Coherent := by decide

theorem test_witness_OnlyAttachWhileUnattached :
    State.reset.Coherent ∧ State.reset.att = false ∧ ∀ w h n a, Instr.write 0 0 ≠ .attach w h n a :=
  ⟨by decide, rfl, fun _ _ _ _ h => by cases h⟩

theorem test_witness_ConsequencesOfAcceptance : Valid 8 1 1 ∧ Valid 128 19 4 ∧ Valid 48 9 6 := by decide

theorem test_witness_SlicesCoverTheWireFrame :
    let g := geometryOf 128 19 4
    Valid 128 19 4 ∧ ∀ o ∈ [0, 99, 100, 399], o < g.fb ∧ o / g.gb < 4 ∧ o / g.gb * g.gb ≤ o := by decide

theorem test_witness_AttachSucceeds :
    fresh.Coherent ∧ fresh.att = false ∧ ∃ g, derive fresh.platform 128 19 4 = .ok g :=
  ⟨by decide, rfl, _, rfl⟩

theorem test_witness_AttachFails :
    fresh.Coherent ∧ fresh.att = false ∧ derive fresh.platform 128 19 3 = .error .eConfig ∧
      ∃ g, derive fresh.platform 8 1 1 = .ok g := ⟨by decide, rfl, by decide, _, rfl⟩

theorem test_witness_DetachEffect :
    (pulsing 3).Coherent ∧ GuardDetach (pulsing 3) ∧ (pulsing 3).tar = true ∧
      (inTransfer 0).Coherent ∧ GuardDetach (inTransfer 0) ∧ (inTransfer 0).tar = false ∧
      (stopped idle).Coherent ∧ ¬ GuardDetach (stopped idle) ∧ ¬ GuardDetach State.reset := by and_intros <;> decide

theorem test_witness_WriteEffect :
    idle.Coherent ∧ idle.att = true ∧ idle.geom = some tiny ∧ idle.bm = some (oneByte 1) ∧
      (oneByte 1).size = tiny.bb ∧ 0 < tiny.bb := by and_intros <;> decide

theorem test_witness_WriteOutOfRangeIsRefused :
    let s0 := { State.reset with inbox := [.line (.write 0 1)] }
    let s1 := { idle with inbox := [.line (.write 1 1)] }
    s0.Coherent ∧ s0.inbox = [.line (.write 0 1)] ∧ s0.att = false ∧
      s1.Coherent ∧ s1.inbox = [.line (.write 1 1)] ∧ s1.att = true ∧ s1.geom = some tiny ∧ tiny.bb ≤ 1 := by and_intros <;> decide

theorem test_witness_BusCompletes :
    (∀ s ∈ [inTransfer 0, stopped (inTransfer 3)],
      s.Coherent ∧ s.att = true ∧ s.st = .send ∧ s.bsy = true ∧ s.don = false) ∧
      (sending 0).Coherent ∧ (sending 0).bsy = false := by refine ⟨?_, ?_, ?_⟩ <;> decide

theorem test_witness_StartEffect : idle.Coherent ∧ idle.att = true ∧ idle.stp = false ∧ idle.st = .idle := by decide

/-- ComposeEffect and FrameSendsTheWholeWireFrame. -/
theorem test_witness_ComposeEffect :
    composing.Inv ∧ GuardCompose composing ∧ composing.geom = some tiny ∧ composing.bm = some (oneByte 1) :=
  ⟨demo_inv (by decide) (by decide) rfl ⟨rfl, rfl, rfl, rfl, rfl⟩, by decide, rfl, rfl⟩

/-- SendIssueEffect and GroupSendsOneSlice, at the first and the last group. -/
theorem test_witness_SendIssueEffect :
    (sending 0).Inv ∧ GuardSendIssue (sending 0) ∧ (sending 0).geom = some tiny ∧ (sending 0).wf = some counting ∧
      (sending 3).Inv ∧ GuardSendIssue (sending 3) :=
  ⟨demo_inv (by decide) (by decide) rfl ⟨rfl, rfl, rfl, rfl, rfl⟩, by decide, rfl, rfl,
    demo_inv (by decide) (by decide) rfl ⟨rfl, rfl, rfl, rfl, rfl⟩, by decide⟩

theorem test_witness_SendDoneEffect :
    ((transferred 0 false).Coherent ∧ GuardSendDone (transferred 0 false)) ∧ (transferred 3 true).Coherent ∧
      GuardSendDone (transferred 3 true) := by and_intros <;> decide

/-- ExpireEffect and DetachAndExpireRace. -/
theorem test_witness_ExpireEffect : (pulsing 3).Coherent ∧ GuardExpire (pulsing 3) := by decide

theorem test_witness_AdvanceEffect :
    (∀ s ∈ [advancing 0, advancing 2, advancing 3], s.Coherent) ∧
      (∀ s ∈ [advancing 0, advancing 2, advancing 3], s.att = true ∧ s.stp = false ∧ s.st = .advance ∧ s.wak = true) ∧
      (advancing 3).cg = 3 ∧ (advancing 2).cg ≠ 3 := by refine ⟨?_, ?_, ?_, ?_⟩ <;> decide

theorem test_witness_DrainEffect :
    ∀ s ∈ [stopped idle, stopped (transferred 1 true), stopped (advancing 3)], s.Coherent ∧ GuardDrain s := by decide

theorem test_witness_StopDisablesAllButDrain :
    (stopped idle).Coherent ∧ (stopped idle).stp = true ∧ (stopped (inTransfer 0)).Coherent ∧
      (stopped (inTransfer 0)).bsy = true := by and_intros <;> decide

/-- WakeIsNeverLost and TraceOnlyGrows. -/
theorem test_witness_WakeIsNeverLost : ∃ t, exec .expire (pulsing 0) = .next t := ⟨_, rfl⟩

theorem test_witness_WorkWaits :
    ∀ s ∈ [inTransfer 0, stopped (inTransfer 0), pulsing 0],
      let s' := { s with inbox := [.raw 0 0 Operands.zero] }
      s'.Coherent ∧ (s'.bsy = true ∨ s'.tar = true) ∧ s'.inbox = .raw 0 0 Operands.zero :: [] := by
  simp only [List.forall_mem_cons]
  refine ⟨⟨?_, ?_, trivial⟩, ⟨?_, ?_, trivial⟩, ⟨?_, ?_, trivial⟩, by simp⟩ <;> decide

theorem test_witness_CompositorAddressesInRange :
    (geometryOf 128 19 4).Accepted ∧ tiny.Accepted ∧ 127 < (geometryOf 128 19 4).w ∧ 18 < (geometryOf 128 19 4).h ∧
      7 < tiny.w ∧ 0 < tiny.h := by decide

/-- PixelOrderDoesNotMatter and both clauses of LitPixelSetsOneBit. -/
theorem test_witness_LitPixelSetsOneBit :
    tiny.Accepted ∧ 7 < tiny.w ∧ 0 < tiny.h ∧ (oneByte 1).full = true ∧ (oneByte 1).size = tiny.bb ∧
      counting.full = true ∧ counting.size = tiny.fb ∧ pixelAt (oneByte 1) (sampleIndex tiny 7 0) = true ∧
      pixelAt (oneByte 1) (sampleIndex tiny 0 0) = false := by decide

/-- The premises every statement about BUILD shares. -/
abbrev TinyBuilds (b : Byte) : Prop :=
  tiny.Accepted ∧ (oneByte b).full = true ∧ (oneByte b).size = tiny.bb ∧
    ∃ wf, build tiny (oneByte b) (Memory.zeros tiny.fb) = .ok wf

theorem test_witness_BuildIsTheClosedForm :
    tiny.Accepted ∧ (oneByte 1).full = true ∧ (oneByte 1).size = tiny.bb := by decide

/-- BuiltHeaders and BuiltDataBits: group 3 of the one panel is lit, groups 0 to 2
are dark. -/
theorem test_witness_BuiltHeaders :
    TinyBuilds 1 ∧
    (7 < tiny.w ∧ 0 < tiny.h ∧ groupOf 7 = 3 ∧ panelOf tiny 7 = 0 ∧ pixelAt (oneByte 1) (sampleIndex tiny 7 0) = true) ∧
      (∀ grp < 3, ∀ x < 8, groupOf x = grp → pixelAt (oneByte 1) (sampleIndex tiny x 0) = false) ∧
      0 < tiny.n ∧ 1 < tiny.cpg ∧ 0 < tiny.r := ⟨⟨by decide, rfl, rfl, _, rfl⟩, by decide⟩

theorem test_witness_MappingIsInvertible :
    tiny.Accepted ∧ 10 < tiny.fb ∧ originOf tiny 10 7 = some (7, 0) := by decide

/-- Both snapshots, and by hand from R154 the two forms of a lit data byte in a geometry of two registers. -/
theorem test_witness_DarkAndLitFrames :
    TinyBuilds 0 ∧ TinyBuilds 0xFF ∧
    (∀ a < tiny.bb, (oneByte 0).read .ss a = .ok 0#8) ∧ (∀ a < tiny.bb, (oneByte 0xFF).read .ss a = .ok 0xFF#8) ∧
      (match build (geometryOf 8 9 1) { size := 9, cells := numberFrom 0 (List.replicate 9 0xFF#8) } (Memory.zeros 20) with
        | .ok wf => bytesOf (some wf)
        | .error _ => []) =
        [0, 0xFF, 0x80, 0xFF, 0x80, 1, 0xFF, 0x80, 0xFF, 0x80, 2, 0xFF, 0x80, 0xFF, 0x80, 3, 0xFF, 0x80, 0xFF, 0x80] := by
  refine ⟨⟨by decide, rfl, rfl, _, rfl⟩, ⟨by decide, rfl, rfl, _, rfl⟩, by decide, by decide, by decide +kernel⟩

theorem test_witness_StepKeepsInvariant :
    ∃ t, ({ idle with inbox := [.line .start] } : State).Inv ∧ step { idle with inbox := [.line .start] } = .next t :=
  ⟨_, demo_inv (by decide) (by decide) rfl ⟨rfl, rfl, rfl, rfl, rfl⟩, rfl⟩

theorem test_witness_ReachableStatesAreCoherent :
    ∃ t, Reachable t ∧ exec (.attach (some 8) (some 1) (some 1) .ok) fresh = .next t ∧ t.att = true :=
  ⟨attachState (some 8) (some 1) (some 1) .ok fresh,
    .byOperation (.attach (some 8) (some 1) (some 1) .ok) (.atReset ⟨fresh.toInputs, rfl⟩) rfl, rfl, rfl⟩

theorem test_witness_StepAlwaysGoesOn : (stopped (inTransfer 3)).Inv :=
  demo_inv (by decide) (by decide) rfl ⟨rfl, rfl, rfl, rfl, rfl⟩

theorem test_witness_MemoriesStayCanonical :
    idle.memoriesCanonical = true ∧ ∃ t, exec (.write 0 7) idle = .next t := ⟨by decide, _, rfl⟩

/-- EventsStayInOrder and LineLevelFollowsChipSelect, at reset and in a pulse. -/
theorem test_witness_EventsStayInOrder :
    (State.reset.Coherent ∧ watch State.reset.trace = some (phaseOf State.reset)) ∧
      let s := { pulsing 0 with
        inbox := [.line .expire]
        trace := [.attached .ok, .snapshot [1], .csSet true, .xfer 0 [0, 0, 0], .xferEnd 0 true, .logXferFail 0,
          .csSet false, .timerArm 0] }
      s.Coherent ∧ watch s.trace = some (phaseOf s) ∧ lineLevel s.trace = s.cs ∧
        after (step s) (fun t => t.st) = some .advance := by and_intros <;> decide

theorem test_witness_MemoriesHaveOneWriter :
    ∃ t, exec .expire (pulsing 0) = .next t ∧ (∀ w h n a, Instr.expire ≠ .attach w h n a) ∧ Instr.expire ≠ .drain ∧
      (∀ a d, Instr.expire ≠ .write a d) ∧ Instr.expire ≠ .compose :=
  ⟨_, rfl, by simp, by simp, by simp, by simp⟩

theorem test_witness_WriteCommutesUpToCompose :
    ∃ s1 s2, exec (.write 0 7) (sending 0) = .next s1 ∧ exec .sendIssue (sending 0) = .next s2 := ⟨_, _, rfl, rfl⟩

theorem test_witness_FrameDependsOnBitmapAndGeometry :
    let s' := { composing with wf := some (Memory.unspecified 12), trace := [.attached .ok] }
    ∃ t t', exec .compose composing = .next t ∧ exec .compose s' = .next t' ∧ composing.geom = s'.geom ∧
      composing.bm = s'.bm := ⟨_, _, rfl, rfl, rfl, rfl⟩

theorem test_witness_FailureDoesNotChangeTheSchedule :
    (inTransfer 3).Coherent ∧ GuardBusErr (inTransfer 3) ∧ (inTransfer 3).stp = false := by and_intros <;> decide

theorem test_witness_DetachWaitsForTheBus :
    (inTransfer 0).Coherent ∧ GuardDetach (inTransfer 0) ∧ (inTransfer 0).bsy = true := by decide

theorem test_witness_DrainReturnsResetValues :
    (stopped (transferred 1 true)).Inv ∧ ∃ t, exec .drain (stopped (transferred 1 true)) = .next t :=
  ⟨demo_inv (by decide) (by decide) rfl ⟨rfl, rfl, rfl, rfl, rfl⟩, _, rfl⟩

theorem test_witness_SetPixAndClrPixChangeOnePixel :
    idle.Inv ∧ idle.att = true ∧ 7 < tiny.w ∧ 0 < tiny.h ∧
      (oneByte 1).read .bm ((0 * tiny.w + 7) >>> 3) = .ok 1#8 ∧ setPix tiny 1 7 0 = .write 0 0x81 ∧
      clrPix tiny 0x81 7 0 = .write 0 1 :=
  ⟨demo_inv (by decide) (by decide) rfl ⟨rfl, rfl, rfl, rfl, rfl⟩, by decide, by decide, by decide, by decide,
    by decide, by decide⟩

theorem test_witness_InstancesShareNothing :
    ∃ system', stepInstance 1 [State.reset, { idle with inbox := [.line .start] }] = .next system' := ⟨_, rfl⟩

/-! A fair run: one whole frame, then a DETACH and a DRAIN, then requests that are refused. -/

def fairLines : List Instr := frameLines ++ [.detach, .drain]

def fairAsks (k : Nat) : Request :=
  match fairLines[k]? with
  | some i => .line i
  | none => .raw 5 0 Operands.zero

/-- The states a list of operations passes through, the first one first. -/
def statesFrom : List Instr → State → List State
  | [], s => [s]
  | i :: rest, s => s :: (match exec i s with
    | .next t => statesFrom rest t
    | .fault _ => []
    | .refused _ => [])

/-- The last state of the fair run. -/
def torndown : State := (runOps fairLines composing).getD composing

def fairStates (k : Nat) : State := (statesFrom fairLines composing).getD k torndown

theorem next_of_after {r : Result} {t : State} (h : after r id = some t) : r = .next t := by
  cases r with
  | next s => exact congrArg _ (Option.some.inj h)
  | fault f => cases h
  | refused f => cases h

theorem fairStates_end {k : Nat} (h : 23 ≤ k) : fairStates k = torndown ∧ fairAsks k = .raw 5 0 Operands.zero := by
  constructor
  · rcases Nat.eq_or_lt_of_le h with rfl | h
    · decide +kernel
    · have hl : (statesFrom fairLines composing).length ≤ k := Nat.le_trans (by decide +kernel) h
      simp [fairStates, List.getElem?_eq_none hl]
  · have hl : fairLines.length ≤ k := Nat.le_trans (by decide) h
    simp [fairAsks, List.getElem?_eq_none hl]

theorem fairRun_steps :
    ∀ k < 23, after (present (fairAsks k) (fairStates k)) id = some (fairStates (k + 1)) := by decide +kernel

theorem fairRun_waits_end :
    ∀ k < 23,
      ((fairStates k).bsy = true → ∃ j < 23, k ≤ j ∧ operationOf (fairAsks j) (fairStates j) = some .busOk) ∧
      ((fairStates k).tar = true → ∃ j < 23, k ≤ j ∧ operationOf (fairAsks j) (fairStates j) = some .expire) := by
  decide +kernel

theorem torndown_idle : torndown.att = false ∧ torndown.bsy = false ∧ torndown.tar = false := by decide +kernel

theorem test_fairRun : FairRun fairAsks fairStates := by
  refine ⟨fun k => ?_, fun k hb => ?_, fun k ht => ?_, fun k i _ _ => ⟨k + 23, Nat.le_add_right .., Or.inr ?_⟩⟩
  · by_cases hk : k < 23
    · exact next_of_after (fairRun_steps k hk)
    · obtain ⟨h1, h2⟩ := fairStates_end (Nat.le_of_not_lt hk)
      rw [h1, h2, (fairStates_end (k := k + 1) (by omega)).1]
      exact next_of_after (by decide +kernel)
  · by_cases hk : k < 23
    · obtain ⟨j, _, hj, ho⟩ := (fairRun_waits_end k hk).1 hb
      exact ⟨j, hj, Or.inl ho⟩
    · rw [(fairStates_end (Nat.le_of_not_lt hk)).1, torndown_idle.2.1] at hb
      cases hb
  · by_cases hk : k < 23
    · obtain ⟨j, _, hj, ho⟩ := (fairRun_waits_end k hk).2 ht
      exact ⟨j, hj, Or.inl ho⟩
    · rw [(fairStates_end (Nat.le_of_not_lt hk)).1, torndown_idle.2.2] at ht
      cases ht
  · rw [(fairStates_end (by omega)).1]
    intro h
    have := torndown_idle.1
    rename_i hi _
    simp only [workOperations, List.mem_cons, List.not_mem_nil, or_false] at hi
    rcases hi with rfl | rfl | rfl | rfl | rfl | rfl <;> exact absurd h.1 (by rw [this]; decide)

/-- EveryFrameCompletes and EveryDetachIsFollowedByDetached: the run takes a COMPOSE, a whole frame after it, and a
DETACH. -/
theorem test_witness_EveryFrameCompletes :
    FairRun fairAsks fairStates ∧ Takes fairAsks fairStates 0 .compose ∧ Takes fairAsks fairStates 20 .advance ∧
      (fairStates 20).cg = 3 ∧ Takes fairAsks fairStates 21 .detach :=
  ⟨test_fairRun, by unfold Takes; decide +kernel, by unfold Takes; decide +kernel, by decide +kernel,
    by unfold Takes; decide +kernel⟩

end Sys2Proof.Tests
end

section
/-! PROOFS. What each operation adds to the trace and which inputs it leaves alone (R15, R47, R272): one equation per
function that computes a next state, then the same for every operation, and the statement that settles O47. -/

namespace Sys2Proof.Machine

/-! ### The trace each function leaves -/

@[simp] theorem warnLine_trace (s : State) :
    (warnLine s).trace = s.trace ++ if s.platform.pulseLineCanSleep then [.warnLineCanSleep] else [] := by
  unfold warnLine
  split
  · rfl
  · exact (List.append_nil _).symm

@[simp] theorem logFailure_trace (failed : Bool) (s : State) :
    (logFailure failed s).trace = s.trace ++ if failed then [.logXferFail s.cg] else [] := by
  unfold logFailure
  split
  · rfl
  · exact (List.append_nil _).symm

@[simp] theorem logFailure_cg (failed : Bool) (s : State) : (logFailure failed s).cg = s.cg := by
  unfold logFailure
  split <;> rfl

@[simp] theorem attachFailed_trace (s : State) (r : AttachResult) :
    (attachFailed s r).trace = s.trace ++ [.attached r] := rfl

@[simp] theorem attachFields_trace (s : State) (g : Geometry) : (attachFields s g).trace = s.trace := rfl

@[simp] theorem detachState_trace (s : State) :
    (detachState s).trace = s.trace ++ if s.tar then [.timerCancel, .csSet true] else [] := by
  unfold detachState
  split
  · simp
  · exact (List.append_nil _).symm

@[simp] theorem composeFields_trace (s : State) (bytes : List Byte) (ss wf : Memory) :
    (composeFields s bytes ss wf).trace = s.trace ++ [.snapshot bytes] := rfl

@[simp] theorem sendIssueFields_trace (s : State) (bytes : List Byte) :
    (sendIssueFields s bytes).trace = s.trace ++ [.csSet true, .xfer s.cg bytes] := by
  simp [sendIssueFields]

@[simp] theorem completeTransfer_trace (status : Bool) (s : State) :
    (completeTransfer status s).trace = s.trace ++ [.xferEnd s.cg status] := rfl

@[simp] theorem sendDoneState_trace (s : State) :
    (sendDoneState s).trace =
      s.trace ++ ((if s.xst then [.logXferFail s.cg] else []) ++ [.csSet false, .timerArm s.cg]) := by
  simp [sendDoneState]

@[simp] theorem expireState_trace (s : State) :
    (expireState s).trace = s.trace ++ [.timerExpire s.cg, .csSet true] := by
  simp [expireState]

@[simp] theorem advanceState_trace (s : State) : (advanceState s).trace = s.trace := by
  unfold advanceState
  split <;> rfl

@[simp] theorem drainState_trace (s : State) :
    (drainState s).trace = s.trace ++ ((if s.don && s.xst then [.logXferFail s.cg] else []) ++ [.detached]) := by
  simp [drainState]

/-- R212: an ATTACH emits its result, after the warning of R224 where it attached and the line can sleep. -/
theorem attachState_trace_append (w h n : Option Nat) (a : Alloc) (s : State) :
    ∃ events, (attachState w h n a s).trace = s.trace ++ events := by
  rcases attachState_cases w h n a s with ⟨r, _, ht⟩ | ⟨g, _, _, ht⟩
  · exact ⟨_, ht ▸ attachFailed_trace s r⟩
  · rw [ht, State.emit_trace, warnLine_trace, attachFields_trace, List.append_assoc]
    exact ⟨_, rfl⟩

/-- R15, R47: every operation only appends to the trace. -/
theorem exec_trace_append {i : Instr} {s t : State} (h : exec i s = .next t) :
    ∃ events, t.trace = s.trace ++ events := by
  cases i with
  | attach w h' n a =>
    obtain ⟨_, _, rfl⟩ := execAttach_next h
    exact attachState_trace_append w h' n a s
  | detach =>
    obtain ⟨_, _, rfl⟩ := execDetach_next h
    exact ⟨_, detachState_trace s⟩
  | write a d =>
    obtain ⟨_, _, _, _, _, _, _, _, _, rfl⟩ := execWrite_next h
    exact ⟨[], (List.append_nil _).symm⟩
  | start =>
    obtain ⟨_, _, rfl⟩ := execStart_next h
    exact ⟨[], (List.append_nil _).symm⟩
  | compose =>
    obtain ⟨_, _, _, _, _, _, bytes, ss, wf, _, _, _, _, _, rfl⟩ := execCompose_next h
    exact ⟨_, composeFields_trace s bytes ss wf⟩
  | sendIssue =>
    obtain ⟨_, _, _, _, bytes, _, _, _, rfl⟩ := execSendIssue_next h
    exact ⟨_, sendIssueFields_trace s bytes⟩
  | sendDone =>
    obtain ⟨_, _, rfl⟩ := execSendDone_next h
    exact ⟨_, sendDoneState_trace s⟩
  | expire =>
    obtain ⟨_, _, rfl⟩ := execExpire_next h
    exact ⟨_, expireState_trace s⟩
  | advance =>
    obtain ⟨_, _, rfl⟩ := execAdvance_next h
    exact ⟨[], by rw [advanceState_trace, List.append_nil]⟩
  | drain =>
    obtain ⟨_, _, rfl⟩ := execDrain_next h
    exact ⟨_, drainState_trace s⟩
  | busOk =>
    obtain ⟨_, _, rfl⟩ := execBusOk_next h
    exact ⟨_, completeTransfer_trace false s⟩
  | busErr =>
    obtain ⟨_, _, rfl⟩ := execBusErr_next h
    exact ⟨_, completeTransfer_trace true s⟩

/-! ### The inputs each function leaves -/

@[simp] theorem warnLine_toInputs (s : State) : (warnLine s).toInputs = s.toInputs := by
  unfold warnLine
  split <;> rfl

@[simp] theorem logFailure_toInputs (failed : Bool) (s : State) : (logFailure failed s).toInputs = s.toInputs := by
  unfold logFailure
  split <;> rfl

@[simp] theorem attachFailed_toInputs (s : State) (r : AttachResult) : (attachFailed s r).toInputs = s.toInputs := rfl

@[simp] theorem attachFields_toInputs (s : State) (g : Geometry) :
    (attachFields s g).toInputs =
      { platform := s.platform, inbox := s.inbox, draws := s.draws + 1, unit := s.unit } := rfl

@[simp] theorem detachState_toInputs (s : State) : (detachState s).toInputs = s.toInputs := by
  unfold detachState
  split <;> rfl

@[simp] theorem composeFields_toInputs (s : State) (bytes : List Byte) (ss wf : Memory) :
    (composeFields s bytes ss wf).toInputs = s.toInputs := rfl

@[simp] theorem sendIssueFields_toInputs (s : State) (bytes : List Byte) :
    (sendIssueFields s bytes).toInputs = s.toInputs := rfl

@[simp] theorem completeTransfer_toInputs (status : Bool) (s : State) :
    (completeTransfer status s).toInputs = s.toInputs := rfl

@[simp] theorem sendDoneState_toInputs (s : State) : (sendDoneState s).toInputs = s.toInputs :=
  logFailure_toInputs s.xst s

@[simp] theorem expireState_toInputs (s : State) : (expireState s).toInputs = s.toInputs := rfl

@[simp] theorem advanceState_toInputs (s : State) : (advanceState s).toInputs = s.toInputs := by
  unfold advanceState
  split <;> rfl

@[simp] theorem drainState_toInputs (s : State) : (drainState s).toInputs = s.toInputs :=
  logFailure_toInputs (s.don && s.xst) s

/-- R40, R212: an ATTACH writes none of the inputs but the count of the free values drawn (log entry 6). -/
theorem attachState_toInputs (w h n : Option Nat) (a : Alloc) (s : State) :
    ∃ k, (attachState w h n a s).toInputs = { platform := s.platform, inbox := s.inbox, draws := k, unit := s.unit } := by
  rcases attachState_cases w h n a s with ⟨r, _, ht⟩ | ⟨g, _, _, ht⟩
  · exact ⟨s.draws, ht ▸ attachFailed_toInputs s r⟩
  · exact ⟨s.draws + 1, by rw [ht, State.emit_toInputs, warnLine_toInputs, attachFields_toInputs]⟩

/-- R10, R272: every operation but ATTACH leaves all the inputs as they were. -/
theorem exec_toInputs {i : Instr} {s t : State} (h : exec i s = .next t) (hi : ∀ w h n a, i ≠ .attach w h n a) :
    t.toInputs = s.toInputs := by
  cases i with
  | attach w h' n a => exact absurd rfl (hi w h' n a)
  | detach =>
    obtain ⟨_, _, rfl⟩ := execDetach_next h
    exact detachState_toInputs s
  | write a d =>
    obtain ⟨_, _, _, _, _, _, _, _, _, rfl⟩ := execWrite_next h
    rfl
  | start =>
    obtain ⟨_, _, rfl⟩ := execStart_next h
    rfl
  | compose =>
    obtain ⟨_, _, _, _, _, _, bytes, ss, wf, _, _, _, _, _, rfl⟩ := execCompose_next h
    exact composeFields_toInputs s bytes ss wf
  | sendIssue =>
    obtain ⟨_, _, _, _, bytes, _, _, _, rfl⟩ := execSendIssue_next h
    exact sendIssueFields_toInputs s bytes
  | sendDone =>
    obtain ⟨_, _, rfl⟩ := execSendDone_next h
    exact sendDoneState_toInputs s
  | expire =>
    obtain ⟨_, _, rfl⟩ := execExpire_next h
    exact expireState_toInputs s
  | advance =>
    obtain ⟨_, _, rfl⟩ := execAdvance_next h
    exact advanceState_toInputs s
  | drain =>
    obtain ⟨_, _, rfl⟩ := execDrain_next h
    exact drainState_toInputs s
  | busOk =>
    obtain ⟨_, _, rfl⟩ := execBusOk_next h
    exact completeTransfer_toInputs false s
  | busErr =>
    obtain ⟨_, _, rfl⟩ := execBusErr_next h
    exact completeTransfer_toInputs true s

/-- R10, R272: no operation writes an input other than the count of the free values drawn. -/
theorem exec_toInputs_draws {i : Instr} {s t : State} (h : exec i s = .next t) :
    ∃ k, t.toInputs = { platform := s.platform, inbox := s.inbox, draws := k, unit := s.unit } := by
  by_cases hi : ∃ w h n a, i = .attach w h n a
  · obtain ⟨w, h', n, a, rfl⟩ := hi
    obtain ⟨_, _, rfl⟩ := execAttach_next h
    exact attachState_toInputs w h' n a s
  · exact ⟨s.draws, exec_toInputs h fun w h' n a he => hi ⟨w, h', n, a, he⟩⟩

/-- Settles O47: each operation's own equation gives the events it appends, and no operation writes an input but the
count of draws. -/
theorem traceOnlyGrows : Obligations.TraceOnlyGrows := by
  intro s t i h
  obtain ⟨k, hk⟩ := exec_toInputs_draws h
  exact ⟨exec_trace_append h, by rw [hk], by rw [hk], by rw [hk]⟩

end Sys2Proof.Machine
end

section
/-! PROOFS. The next state of each operation as one record update (R174 to R180, R212 to R222), which fields an operation
leaves alone, and the statement about the writers of the memories (O48). -/

namespace Sys2Proof.Machine

/-! ### Each function as one update -/

theorem warnLine_eq (s : State) :
    warnLine s =
      { s with trace := s.trace ++ if s.platform.pulseLineCanSleep then [.warnLineCanSleep] else [] } := by
  unfold warnLine
  split
  · rfl
  · rw [List.append_nil]

theorem logFailure_eq (failed : Bool) (s : State) :
    logFailure failed s = { s with trace := s.trace ++ if failed then [.logXferFail s.cg] else [] } := by
  unfold logFailure
  split
  · rfl
  · rw [List.append_nil]

/-- R214: both ways a DETACH can end; CS rises only where a pulse was cut. -/
theorem detachState_eq (s : State) :
    detachState s = { s with
      stp := true, tar := false, cs := s.cs || s.tar
      trace := s.trace ++ if s.tar then [.timerCancel, .csSet true] else [] } := by
  unfold detachState
  cases htar : s.tar with
  | false => simp
  | true => simp [State.driveCs, State.emit]

theorem sendIssueFields_eq (s : State) (bytes : List Byte) :
    sendIssueFields s bytes =
      { s with cs := true, bsy := true, trace := s.trace ++ [.csSet true, .xfer s.cg bytes] } := by
  simp [sendIssueFields, State.driveCs, State.emit]

theorem sendDoneState_eq (s : State) :
    sendDoneState s = { s with
      don := false, cs := false, tar := true, st := .pulseWait
      trace := s.trace ++ ((if s.xst then [.logXferFail s.cg] else []) ++ [.csSet false, .timerArm s.cg]) } := by
  simp [sendDoneState, logFailure_eq, State.driveCs, State.emit]

theorem expireState_eq (s : State) :
    expireState s = { s with
      tar := false, cs := true, wak := true, st := .advance
      trace := s.trace ++ [.timerExpire s.cg, .csSet true] } := by
  simp [expireState, State.driveCs, State.emit]

/-- R22, R179: the group counter wraps to 0 exactly where the frame is complete. -/
theorem advanceState_eq (s : State) :
    advanceState s = { s with
      wak := false, cg := s.cg + 1, st := if s.cg = 3 then .compose else .send } := by
  have wrap : ∀ g : BitVec 2, (g = 3 → g.toNat + 1 = groups ∧ g + 1 = 0) ∧
      (g ≠ 3 → g.toNat + 1 ≠ groups ∧ BitVec.ofNat 2 (g.toNat + 1) = g + 1) := by decide
  unfold advanceState
  by_cases hg : s.cg = 3
  · obtain ⟨hlast, hzero⟩ := (wrap s.cg).1 hg
    rw [if_pos hlast, if_pos hg, hzero]
  · obtain ⟨hlast, hnext⟩ := (wrap s.cg).2 hg
    rw [if_neg hlast, if_neg hg, hnext]

theorem drainState_eq (s : State) :
    drainState s = { s with
      st := .idle, cg := 0, don := false, xst := false, wak := false
      bm := none, ss := none, wf := none, geom := none, stp := false, att := false
      trace := s.trace ++ ((if s.don && s.xst then [.logXferFail s.cg] else []) ++ [.detached]) } := by
  simp [drainState, logFailure_eq, State.emit]

/-- R49, R212, R224: the state a successful ATTACH leaves. -/
theorem attached_eq (s : State) (g : Geometry) :
    (warnLine (attachFields s g)).emit (.attached .ok) = { s with
      att := true, st := .idle, cg := 0, stp := false, bsy := false, don := false, xst := false, tar := false
      wak := false, geom := some g, bm := some (Memory.arbitrary s.unit s.draws g.bb)
      ss := some (Memory.unspecified g.bb), wf := some (Memory.unspecified g.fb), draws := s.draws + 1
      trace := s.trace ++ (if s.platform.pulseLineCanSleep then [.warnLineCanSleep] else []) ++ [.attached .ok] } := by
  rw [warnLine_eq]
  rfl

/-! ### The writers of the memories -/

/-- Settles O48: in each operation's next state, GEOM and ATT are the old ones, and so is every memory but BM in a WRITE
and SS and WF in a COMPOSE. -/
theorem memoriesHaveOneWriter : Obligations.MemoriesHaveOneWriter := by
  intro s t i h hattach hdrain
  cases i with
  | attach w h' n a => exact absurd rfl (hattach w h' n a)
  | drain => exact absurd rfl hdrain
  | write a d =>
    obtain ⟨_, _, _, _, _, _, _, _, _, rfl⟩ := execWrite_next h
    exact ⟨rfl, rfl, fun hwrite => absurd rfl (hwrite a d), fun _ => ⟨rfl, rfl⟩⟩
  | compose =>
    obtain ⟨_, _, _, _, _, _, _, _, _, _, _, _, _, _, rfl⟩ := execCompose_next h
    exact ⟨rfl, rfl, fun _ => rfl, fun hcompose => absurd rfl hcompose⟩
  | detach =>
    obtain ⟨_, _, rfl⟩ := execDetach_next h
    rw [detachState_eq]
    exact ⟨rfl, rfl, fun _ => rfl, fun _ => ⟨rfl, rfl⟩⟩
  | start =>
    obtain ⟨_, _, rfl⟩ := execStart_next h
    exact ⟨rfl, rfl, fun _ => rfl, fun _ => ⟨rfl, rfl⟩⟩
  | sendIssue =>
    obtain ⟨_, _, _, _, _, _, _, _, rfl⟩ := execSendIssue_next h
    exact ⟨rfl, rfl, fun _ => rfl, fun _ => ⟨rfl, rfl⟩⟩
  | sendDone =>
    obtain ⟨_, _, rfl⟩ := execSendDone_next h
    rw [sendDoneState_eq]
    exact ⟨rfl, rfl, fun _ => rfl, fun _ => ⟨rfl, rfl⟩⟩
  | expire =>
    obtain ⟨_, _, rfl⟩ := execExpire_next h
    exact ⟨rfl, rfl, fun _ => rfl, fun _ => ⟨rfl, rfl⟩⟩
  | advance =>
    obtain ⟨_, _, rfl⟩ := execAdvance_next h
    rw [advanceState_eq]
    exact ⟨rfl, rfl, fun _ => rfl, fun _ => ⟨rfl, rfl⟩⟩
  | busOk =>
    obtain ⟨_, _, rfl⟩ := execBusOk_next h
    exact ⟨rfl, rfl, fun _ => rfl, fun _ => ⟨rfl, rfl⟩⟩
  | busErr =>
    obtain ⟨_, _, rfl⟩ := execBusErr_next h
    exact ⟨rfl, rfl, fun _ => rfl, fun _ => ⟨rfl, rfl⟩⟩

end Sys2Proof.Machine
end

section
/-! PROOFS. R37 place by place: what the six clauses say in each scheduler state, that every operation keeps them, and the
invariant of every step and of every reachable state (O41, O42). -/

namespace Sys2Proof.Machine

/-! ### R37 in each scheduler state -/

/-- R37 clauses 1 and 6 leave an unattached block no other fields than those of reset. -/
theorem coherent_iff_unattached {s : State} (hatt : s.att = false) :
    s.Coherent ↔ s.st = .idle ∧ s.cg = 0 ∧ s.stp = false ∧ s.bsy = false ∧ s.don = false ∧ s.tar = false ∧
      s.wak = false ∧ s.cs = true := by
  constructor
  · rintro ⟨hidle, _⟩
    exact hidle hatt
  · intro hidle
    refine ⟨fun _ => hidle, ⟨?_, ?_⟩, ⟨?_, ?_⟩, ⟨?_, ?_⟩, ?_, ?_⟩ <;> grind

/-- R37 without its first clause, which is about ATT = 0. -/
theorem coherent_iff_attached {s : State} (hatt : s.att = true) :
    s.Coherent ↔ s.TransferIsInSend ∧ s.TimerIsInPulse ∧ s.WakeIsInAdvance ∧ s.LowIsInPulse ∧ s.CodeIsNamed :=
  and_iff_right fun h => absurd (hatt.symm.trans h) Bool.noConfusion

/-- Between frames nothing is outstanding and the line is high. -/
theorem coherent_iff_between {s : State} (hatt : s.att = true) (hst : s.st = .idle ∨ s.st = .compose) :
    s.Coherent ↔ s.bsy = false ∧ s.don = false ∧ s.tar = false ∧ s.wak = false ∧ s.cs = true := by
  rw [coherent_iff_attached hatt]
  grind

/-- In SEND a transfer is outstanding, or its completion is posted, or neither. -/
theorem coherent_iff_send {s : State} (hatt : s.att = true) (hst : s.st = .send) :
    s.Coherent ↔ ¬ (s.bsy = true ∧ s.don = true) ∧ s.tar = false ∧ s.wak = false ∧ s.cs = true := by
  rw [coherent_iff_attached hatt]
  grind

/-- In PULSE_WAIT the timer is armed exactly until a DETACH, and the line is low until then. -/
theorem coherent_iff_pulseWait {s : State} (hatt : s.att = true) (hst : s.st = .pulseWait) :
    s.Coherent ↔ s.bsy = false ∧ s.don = false ∧ s.tar = !s.stp ∧ s.wak = false ∧ (s.stp = false → s.cs = false) := by
  rw [coherent_iff_attached hatt]
  grind

/-- In ADVANCE the wake is pending, but for a DETACH, and the line is high. -/
theorem coherent_iff_advance {s : State} (hatt : s.att = true) (hst : s.st = .advance) :
    s.Coherent ↔ s.bsy = false ∧ s.don = false ∧ s.tar = false ∧ (s.stp = false → s.wak = true) ∧ s.cs = true := by
  rw [coherent_iff_attached hatt]
  grind

/-! ### Every operation keeps R37 -/

/-- R212: from the fields of reset an ATTACH leaves those of reset or of a block between frames. -/
theorem attachState_coherent {w h n : Option Nat} {a : Alloc} {s : State} (hc : s.Coherent) (hg : GuardAttach s) :
    (attachState w h n a s).Coherent := by
  rcases attachState_cases w h n a s with ⟨r, _, ht⟩ | ⟨g, _, _, ht⟩
  · rw [ht]
    exact hc
  · obtain ⟨_, _, _, _, _, _, _, hcs⟩ := (coherent_iff_unattached hg.1).1 hc
    rw [ht, attached_eq]
    exact (coherent_iff_between rfl (.inl rfl)).2 ⟨rfl, rfl, rfl, rfl, hcs⟩

/-- R214: with STP set the clauses ask only that the timer is off, and a DETACH disarms it. -/
theorem detachState_coherent {s : State} (hc : s.Coherent) (hg : GuardDetach s) : (detachState s).Coherent := by
  obtain ⟨hatt, _⟩ := hg
  obtain ⟨_, htransfer, _, ⟨hwake, _⟩, hlow, hcode⟩ := hc
  rw [detachState_eq]
  refine (coherent_iff_attached (by exact hatt)).2 ⟨htransfer, ⟨nofun, nofun⟩, ⟨hwake, nofun⟩, fun hcs => hlow ?_, hcode⟩
  exact (Bool.or_eq_false_iff.1 hcs).1

theorem start_coherent {s : State} (hc : s.Coherent) (hg : GuardStart s) :
    State.Coherent { s with st := .compose } := by
  obtain ⟨hatt, _, hst⟩ := hg
  exact (coherent_iff_between (by exact hatt) (by exact .inr rfl)).2 ((coherent_iff_between hatt (.inl hst)).1 hc)

theorem composeFields_coherent {s : State} (hc : s.Coherent) (hg : GuardCompose s) (bytes : List Byte)
    (ss wf : Memory) : (composeFields s bytes ss wf).Coherent := by
  obtain ⟨hatt, _, hst⟩ := hg
  obtain ⟨hbsy, _, htar, hwak, hcs⟩ := (coherent_iff_between hatt (.inr hst)).1 hc
  exact (coherent_iff_send (by exact hatt) (by rfl)).2 ⟨by simp [composeFields, hbsy], htar, hwak, hcs⟩

theorem sendIssueFields_coherent {s : State} (hc : s.Coherent) (hg : GuardSendIssue s) (bytes : List Byte) :
    (sendIssueFields s bytes).Coherent := by
  obtain ⟨hatt, _, hst, _, hdon⟩ := hg
  obtain ⟨_, htar, hwak, _⟩ := (coherent_iff_send hatt hst).1 hc
  exact (coherent_iff_send (by exact hatt) (by exact hst)).2 ⟨by simp [sendIssueFields, hdon], htar, hwak, rfl⟩

theorem completeTransfer_coherent {s : State} (hc : s.Coherent) (hg : GuardBusOk s) (status : Bool) :
    (completeTransfer status s).Coherent := by
  obtain ⟨hatt, hst, _⟩ := hg
  obtain ⟨_, htar, hwak, hcs⟩ := (coherent_iff_send hatt hst).1 hc
  exact (coherent_iff_send (by exact hatt) (by exact hst)).2 ⟨by simp [completeTransfer], htar, hwak, hcs⟩

theorem sendDoneState_coherent {s : State} (hc : s.Coherent) (hg : GuardSendDone s) : (sendDoneState s).Coherent := by
  obtain ⟨hatt, hstp, hst, hbsy, _⟩ := hg
  obtain ⟨_, _, hwak, _⟩ := (coherent_iff_send hatt hst).1 hc
  rw [sendDoneState_eq]
  exact (coherent_iff_pulseWait (by exact hatt) (by rfl)).2 ⟨hbsy, rfl, by simp [hstp], hwak, fun _ => rfl⟩

theorem expireState_coherent {s : State} (hc : s.Coherent) (hg : GuardExpire s) : (expireState s).Coherent := by
  obtain ⟨hatt, _, hst, _⟩ := hg
  obtain ⟨hbsy, hdon, _⟩ := (coherent_iff_pulseWait hatt hst).1 hc
  exact (coherent_iff_advance (by exact hatt) (by rfl)).2 ⟨hbsy, hdon, rfl, fun _ => rfl, rfl⟩

theorem advanceState_coherent {s : State} (hc : s.Coherent) (hg : GuardAdvance s) : (advanceState s).Coherent := by
  obtain ⟨hatt, _, hst, _⟩ := hg
  obtain ⟨hbsy, hdon, htar, _, hcs⟩ := (coherent_iff_advance hatt hst).1 hc
  rw [advanceState_eq]
  by_cases hlast : s.cg = 3
  · simp only [if_pos hlast]
    exact (coherent_iff_between (by exact hatt) (by exact .inr rfl)).2 ⟨hbsy, hdon, htar, rfl, hcs⟩
  · simp only [if_neg hlast]
    exact (coherent_iff_send (by exact hatt) (by rfl)).2 ⟨by simp [hbsy], htar, rfl, hcs⟩

/-- R180: a DRAIN writes neither TAR nor CS. R37 gives TAR = 0 where STP = 1; CS = 1 is log entry 5's clause. -/
theorem drainState_coherent {s : State} (hc : s.Coherent) (hhigh : s.StoppedIsHigh) (hg : GuardDrain s) :
    (drainState s).Coherent := by
  obtain ⟨_, hstp, hbsy⟩ := hg
  obtain ⟨_, _, ⟨htimer, _⟩, _⟩ := hc
  have htar : s.tar = false := by
    by_contra harmed
    simpa [hstp] using (htimer (by simpa using harmed)).2
  rw [drainState_eq]
  exact (coherent_iff_unattached rfl).2 ⟨rfl, rfl, rfl, hbsy, rfl, htar, rfl, hhigh hstp⟩

/-- R37 for every operation's step. DRAIN alone needs the clause of log entry 5. -/
theorem exec_coherent {i : Instr} {s t : State} (h : exec i s = .next t) (hhigh : i = .drain → s.StoppedIsHigh) :
    t.Coherent := by
  cases i with
  | attach w h' n a => obtain ⟨hc, hg, rfl⟩ := execAttach_next h; exact attachState_coherent hc hg
  | detach => obtain ⟨hc, hg, rfl⟩ := execDetach_next h; exact detachState_coherent hc hg
  | write a d => obtain ⟨hc, _, _, _, _, _, _, _, _, rfl⟩ := execWrite_next h; exact hc
  | start => obtain ⟨hc, hg, rfl⟩ := execStart_next h; exact start_coherent hc hg
  | compose =>
    obtain ⟨hc, hg, _, _, _, _, _, _, _, _, _, _, _, _, rfl⟩ := execCompose_next h
    exact composeFields_coherent hc hg _ _ _
  | sendIssue =>
    obtain ⟨hc, hg, _, _, _, _, _, _, rfl⟩ := execSendIssue_next h
    exact sendIssueFields_coherent hc hg _
  | sendDone => obtain ⟨hc, hg, rfl⟩ := execSendDone_next h; exact sendDoneState_coherent hc hg
  | expire => obtain ⟨hc, hg, rfl⟩ := execExpire_next h; exact expireState_coherent hc hg
  | advance => obtain ⟨hc, hg, rfl⟩ := execAdvance_next h; exact advanceState_coherent hc hg
  | drain => obtain ⟨hc, hg, rfl⟩ := execDrain_next h; exact drainState_coherent hc (hhigh rfl) hg
  | busOk => obtain ⟨hc, hg, rfl⟩ := execBusOk_next h; exact completeTransfer_coherent hc hg false
  | busErr => obtain ⟨hc, hg, rfl⟩ := execBusErr_next h; exact completeTransfer_coherent hc hg true

/-! ### The rest of the invariant -/

/-- Log entry 5: a DETACH that cuts no pulse finds the line high already, and no other operation sets STP or lowers CS
while STP = 1. -/
theorem exec_stoppedIsHigh {i : Instr} {s t : State} (h : exec i s = .next t) (hhigh : s.StoppedIsHigh) :
    t.StoppedIsHigh := by
  have unstopped : ∀ {u : State}, u.stp = false → u.StoppedIsHigh := fun hu hstp => by simp [hu] at hstp
  cases i with
  | attach w h' n a =>
    obtain ⟨_, hg, rfl⟩ := execAttach_next h
    obtain ⟨_, _, hstp, _⟩ := hg
    rcases attachState_cases w h' n a s with ⟨r, _, ht⟩ | ⟨g, _, _, ht⟩
    · exact unstopped (ht ▸ hstp)
    · exact unstopped (by rw [ht, attached_eq])
  | detach =>
    obtain ⟨hc, ⟨hatt, hstp⟩, rfl⟩ := execDetach_next h
    obtain ⟨_, _, ⟨_, hpulse⟩, _, hlow, _⟩ := hc
    intro _
    simp only [detachState_eq, Bool.or_eq_true]
    by_cases hcs : s.cs = true
    · exact .inl hcs
    · exact .inr (hpulse (hlow (by simpa using hcs)) hstp hatt).1
  | write a d => obtain ⟨_, _, _, _, _, _, _, _, _, rfl⟩ := execWrite_next h; exact hhigh
  | start => obtain ⟨_, _, rfl⟩ := execStart_next h; exact hhigh
  | compose => obtain ⟨_, _, _, _, _, _, _, _, _, _, _, _, _, _, rfl⟩ := execCompose_next h; exact hhigh
  | sendIssue => obtain ⟨_, _, _, _, _, _, _, _, rfl⟩ := execSendIssue_next h; exact fun _ => rfl
  | sendDone =>
    obtain ⟨_, ⟨_, hstp, _⟩, rfl⟩ := execSendDone_next h
    exact unstopped (by rw [sendDoneState_eq]; exact hstp)
  | expire => obtain ⟨_, _, rfl⟩ := execExpire_next h; exact fun _ => rfl
  | advance => obtain ⟨_, _, rfl⟩ := execAdvance_next h; rw [advanceState_eq]; exact hhigh
  | drain => obtain ⟨_, _, rfl⟩ := execDrain_next h; exact unstopped (by rw [drainState_eq])
  | busOk => obtain ⟨_, _, rfl⟩ := execBusOk_next h; exact hhigh
  | busErr => obtain ⟨_, _, rfl⟩ := execBusErr_next h; exact hhigh

/-- R170: between frames the block is in none. -/
theorem not_inFrame {s : State} (hst : s.st = .idle ∨ s.st = .compose) : ¬ s.InFrame := by
  rcases hst with hst | hst <;> simp [State.InFrame, hst]

/-- R170: only COMPOSE takes the block into a frame. -/
theorem exec_inFrame {i : Instr} {s t : State} (h : exec i s = .next t) (hcompose : i ≠ .compose) (ht : t.InFrame) :
    s.InFrame := by
  cases i with
  | attach w h' n a =>
    obtain ⟨_, _, rfl⟩ := execAttach_next h
    rcases attachState_cases w h' n a s with ⟨r, _, hr⟩ | ⟨g, _, _, hg⟩
    · rw [hr] at ht
      exact ht
    · rw [hg, attached_eq] at ht
      exact absurd ht (not_inFrame (.inl rfl))
  | compose => exact absurd rfl hcompose
  | detach => obtain ⟨_, _, rfl⟩ := execDetach_next h; rw [detachState_eq] at ht; exact ht
  | write a d => obtain ⟨_, _, _, _, _, _, _, _, _, rfl⟩ := execWrite_next h; exact ht
  | start => obtain ⟨_, _, rfl⟩ := execStart_next h; exact absurd ht (not_inFrame (.inr rfl))
  | sendIssue => obtain ⟨_, _, _, _, _, _, _, _, rfl⟩ := execSendIssue_next h; exact ht
  | sendDone => obtain ⟨_, ⟨_, _, hst, _⟩, _⟩ := execSendDone_next h; exact .inl hst
  | expire => obtain ⟨_, ⟨_, _, hst, _⟩, _⟩ := execExpire_next h; exact .inr (.inl hst)
  | advance => obtain ⟨_, ⟨_, _, hst, _⟩, _⟩ := execAdvance_next h; exact .inr (.inr hst)
  | drain => obtain ⟨_, _, rfl⟩ := execDrain_next h; exact absurd ht (not_inFrame (.inl rfl))
  | busOk => obtain ⟨_, _, rfl⟩ := execBusOk_next h; exact ht
  | busErr => obtain ⟨_, _, rfl⟩ := execBusErr_next h; exact ht

/-- The fit of geometry and memories reads only the platform and whether a frame is being sent. -/
theorem InstanceFits.of_state {s t : State} {g : Geometry} {bm ss wf : Memory} (hf : InstanceFits s g bm ss wf)
    (hplatform : t.platform = s.platform) (hframe : t.InFrame → s.InFrame) : InstanceFits t g bm ss wf :=
  { hf with
    derived := hplatform ▸ hf.derived
    ssFull := fun ht => hf.ssFull (hframe ht)
    wfFull := fun ht => hf.wfFull (hframe ht) }

/-- R49, R131: what an ATTACH allocates has the sizes of the geometry it derived; no frame is being sent yet. -/
theorem attached_fits {s : State} {w h n k : Nat} {g : Geometry} (hd : derive s.platform w h n = .ok g)
    (hst : s.st = .idle) :
    InstanceFits s g (Memory.arbitrary s.unit k g.bb) (Memory.unspecified g.bb) (Memory.unspecified g.fb) where
  derived := by
    obtain ⟨_, rfl⟩ := derive_ok hd
    exact hd
  bmSize := rfl
  bmFull := Memory.arbitrary_full s.unit k g.bb
  ssSize := rfl
  ssForm := Memory.unspecified_wf g.bb
  wfSize := rfl
  wfForm := Memory.unspecified_wf g.fb
  ssFull := fun hframe => absurd hframe (not_inFrame (.inl hst))
  wfFull := fun hframe => absurd hframe (not_inFrame (.inl hst))

/-- R215: a WRITE inside the Linear Bitmap leaves a full memory of the same size. -/
theorem InstanceFits.write {s : State} {g : Geometry} {bm bm' ss wf : Memory} {a : Nat} {d : Byte}
    (hf : InstanceFits s g bm ss wf) (hw : bm.write .bm a d = .ok bm') :
    InstanceFits { s with bm := some bm' } g bm' ss wf :=
  { hf with
    bmSize := (Memory.write_size hw).trans hf.bmSize
    bmFull := Memory.write_full hw hf.bmFull }

/-- R175: COMPOSE leaves SS and WF full, at the sizes they had. -/
theorem InstanceFits.compose {s t : State} {g : Geometry} {bm ss wf ss' wf' : Memory} {bytes : List Byte}
    (hf : InstanceFits s g bm ss wf) (hm : composeMemories g bm ss wf = .ok (bytes, ss', wf'))
    (hplatform : t.platform = s.platform) : InstanceFits t g bm ss' wf' := by
  obtain ⟨hssFull, hssSize, hwfFull, hwfSize⟩ := composeMemories_full hm
  exact { hf with
    derived := hplatform ▸ hf.derived
    ssSize := hssSize.trans hf.ssSize
    ssForm := Memory.wf_of_full hssFull
    wfSize := hwfSize.trans hf.wfSize
    wfForm := Memory.wf_of_full hwfFull
    ssFull := fun _ => hssFull
    wfFull := fun _ => hwfFull }

/-- R100: every operation but ATTACH asks for ATT = 1. -/
theorem attached_of_guardOf {i : Instr} {s : State} (hg : guardOf i s) (hattach : ∀ w h n a, i ≠ .attach w h n a) :
    s.att = true := by
  cases i with
  | attach w h n a => exact absurd rfl (hattach w h n a)
  | write a d => exact hg
  | detach | start | compose | sendIssue | sendDone | expire | advance | drain | busOk | busErr => exact hg.1

/-- R43, R180: an operation that ends unattached leaves nothing allocated: a failed ATTACH found nothing, a DRAIN frees
everything, and any other operation stays attached. -/
theorem exec_detached {i : Instr} {s t : State} (h : exec i s = .next t) (hs : s.DetachedHasNothing) :
    t.DetachedHasNothing := by
  intro hatt
  by_cases hattach : ∃ w h n a, i = .attach w h n a
  · obtain ⟨w, h', n, a, rfl⟩ := hattach
    obtain ⟨_, hg, rfl⟩ := execAttach_next h
    rcases attachState_cases w h' n a s with ⟨r, _, ht⟩ | ⟨g, _, _, ht⟩
    · rw [ht]
      exact hs hg.1
    · rw [ht, attached_eq] at hatt
      cases hatt
  · by_cases hdrain : i = .drain
    · subst hdrain
      obtain ⟨_, _, rfl⟩ := execDrain_next h
      exact ⟨rfl, rfl, rfl, rfl⟩
    · have other : ∀ w h n a, i ≠ .attach w h n a := fun w h' n a he => hattach ⟨w, h', n, a, he⟩
      obtain ⟨_, hkept, _⟩ := memoriesHaveOneWriter s t i h other hdrain
      obtain ⟨_, hg⟩ := exec_guarded h
      rw [hkept, attached_of_guardOf hg other] at hatt
      cases hatt

/-- R31, R71: an operation that writes neither GEOM nor a memory keeps the fit of the four. -/
theorem exec_attached_of_unwritten {i : Instr} {s t : State} (h : exec i s = .next t)
    (hattach : ∀ w h n a, i ≠ .attach w h n a) (hdrain : i ≠ .drain) (hwrite : ∀ a d, i ≠ .write a d)
    (hcompose : i ≠ .compose) (hs : s.AttachedHasInstance) : t.AttachedHasInstance := by
  obtain ⟨hgeom, hatt, hbm, hssWf⟩ := memoriesHaveOneWriter s t i h hattach hdrain
  obtain ⟨hss, hwf⟩ := hssWf hcompose
  intro ht
  obtain ⟨g, bm, ss, wf, hg, hb, hs', hw, hf⟩ := hs (hatt ▸ ht)
  refine ⟨g, bm, ss, wf, hgeom.trans hg, (hbm hwrite).trans hb, hss.trans hs', hwf.trans hw, ?_⟩
  exact hf.of_state (by rw [exec_toInputs h hattach]) (exec_inFrame h hcompose)

/-- R43, R49, R60: while attached, every operation leaves a geometry and memories that fit each other. -/
theorem exec_attached {i : Instr} {s t : State} (h : exec i s = .next t) (hs : s.AttachedHasInstance) :
    t.AttachedHasInstance := by
  cases i with
  | attach w h' n a =>
    obtain ⟨_, hg, rfl⟩ := execAttach_next h
    rcases attachState_cases w h' n a s with ⟨r, _, ht⟩ | ⟨g, hd, _, ht⟩
    · intro hatt
      rw [ht] at hatt
      exact absurd (hg.1.symm.trans hatt) Bool.noConfusion
    · rw [ht, attached_eq]
      refine fun _ => ⟨g, _, _, _, rfl, rfl, rfl, rfl, (attached_fits hd hg.2.1).of_state rfl ?_⟩
      exact fun hframe => absurd hframe (not_inFrame (.inl rfl))
  | drain =>
    obtain ⟨_, _, rfl⟩ := execDrain_next h
    exact fun hatt => Bool.noConfusion hatt
  | write a d =>
    obtain ⟨_, hatt, _, bm, bm', _, _, hbm, hw, rfl⟩ := execWrite_next h
    obtain ⟨g, bm0, ss, wf, hg, hb, hss, hwf, hf⟩ := hs hatt
    obtain rfl : bm0 = bm := Option.some.inj (hb.symm.trans hbm)
    exact fun _ => ⟨g, bm', ss, wf, hg, rfl, hss, hwf, hf.write hw⟩
  | compose =>
    obtain ⟨_, ⟨hatt, _⟩, g, bm, ss, wf, bytes, ss', wf', hg, hb, hss, hwf, hm, rfl⟩ := execCompose_next h
    obtain ⟨g0, bm0, ss0, wf0, hg0, hb0, hss0, hwf0, hf⟩ := hs hatt
    obtain rfl : g0 = g := Option.some.inj (hg0.symm.trans hg)
    obtain rfl : bm0 = bm := Option.some.inj (hb0.symm.trans hb)
    obtain rfl : ss0 = ss := Option.some.inj (hss0.symm.trans hss)
    obtain rfl : wf0 = wf := Option.some.inj (hwf0.symm.trans hwf)
    exact fun _ => ⟨g0, bm0, ss', wf', hg, hb, rfl, rfl, hf.compose hm rfl⟩
  | detach | start | sendIssue | sendDone | expire | advance | busOk | busErr =>
    exact exec_attached_of_unwritten h nofun nofun nofun nofun hs

/-! ### The invariant -/

/-- Every operation keeps the invariant. -/
theorem exec_inv {i : Instr} {s t : State} (h : exec i s = .next t) (hs : s.Inv) : t.Inv where
  coherent := exec_coherent h fun _ => hs.stoppedIsHigh
  stoppedIsHigh := exec_stoppedIsHigh h hs.stoppedIsHigh
  detached := exec_detached h hs.detached
  attached := exec_attached h hs.attached

/-- Taking a request does not touch what the invariant is about. -/
theorem State.Inv.of_fetch {s : State} (hs : s.Inv) (requests : List Request) (k : Nat) :
    State.Inv { s with inbox := requests, draws := k } where
  coherent := hs.coherent
  stoppedIsHigh := hs.stoppedIsHigh
  detached := hs.detached
  attached := fun hatt => by
    obtain ⟨g, bm, ss, wf, hg, hb, hss, hwf, hf⟩ := hs.attached hatt
    exact ⟨g, bm, ss, wf, hg, hb, hss, hwf, hf.of_state rfl id⟩

/-- R48: the fields of reset have the invariant, whatever the inputs are. -/
theorem inv_of_atReset {s : State} (h : s.AtReset) : s.Inv := by
  obtain ⟨inputs, rfl⟩ := h
  exact {
    coherent := (coherent_iff_unattached rfl).2 ⟨rfl, rfl, rfl, rfl, rfl, rfl, rfl, rfl⟩
    stoppedIsHigh := fun _ => rfl
    detached := fun _ => ⟨rfl, rfl, rfl, rfl⟩
    attached := fun hatt => Bool.noConfusion hatt }

theorem inv_of_reachable {s : State} (h : Reachable s) : s.Inv := by
  induction h with
  | atReset h => exact inv_of_atReset h
  | byOperation i _ hstep ih => exact exec_inv hstep ih

/-- Settles O41: a step takes a request, which the invariant does not read, and then runs at most one operation, each of
which keeps it. -/
theorem stepKeepsInvariant : Obligations.StepKeepsInvariant := by
  intro s t hs h
  obtain ⟨requests, k, rfl | ⟨i, hi⟩⟩ := step_next h
  · exact hs.of_fetch requests k
  · exact exec_inv hi (hs.of_fetch requests k)

/-- Settles O42: the invariant holds at reset and every operation keeps it; R37 is its first part. -/
theorem reachableStatesAreCoherent : Obligations.ReachableStatesAreCoherent :=
  fun _ h => (inv_of_reachable h).coherent

end Sys2Proof.Machine
end

section
/-! PROOFS. The order of the events (R171, R182, R183, R249) and the level of the chip-select line (R30, R47): the phase of
each scheduler state, the phase and the level each operation's events lead to, and the statements O45 and O46. -/

namespace Sys2Proof.Machine

/-! ### The phase of a state (R190) -/

theorem phaseOf_unattached {s : State} (hatt : s.att = false) : phaseOf s = .off := by
  simp [phaseOf, hatt]

theorem phaseOf_between {s : State} (hatt : s.att = true) (hst : s.st = .idle ∨ s.st = .compose) :
    phaseOf s = .ready := by
  rcases hst with hst | hst <;> simp [phaseOf, hatt, hst]

theorem phaseOf_toSend {s : State} (hatt : s.att = true) (hst : s.st = .send) (hbsy : s.bsy = false)
    (hdon : s.don = false) : phaseOf s = .toSend s.cg := by
  simp [phaseOf, hatt, hst, hbsy, hdon]

theorem phaseOf_inTransfer {s : State} (hatt : s.att = true) (hst : s.st = .send) (hbsy : s.bsy = true) :
    phaseOf s = .inTransfer s.cg := by
  simp [phaseOf, hatt, hst, hbsy]

theorem phaseOf_ended {s : State} (hatt : s.att = true) (hst : s.st = .send) (hbsy : s.bsy = false)
    (hdon : s.don = true) : phaseOf s = .ended s.cg s.xst := by
  simp [phaseOf, hatt, hst, hbsy, hdon]

theorem phaseOf_pulse {s : State} (hatt : s.att = true) (hst : s.st = .pulseWait) (htar : s.tar = true) :
    phaseOf s = .pulse s.cg := by
  simp [phaseOf, hatt, hst, htar]

theorem phaseOf_cancelled {s : State} (hatt : s.att = true) (hst : s.st = .pulseWait) (htar : s.tar = false) :
    phaseOf s = .cancelled := by
  simp [phaseOf, hatt, hst, htar]

theorem phaseOf_advance {s : State} (hatt : s.att = true) (hst : s.st = .advance) :
    phaseOf s = phaseAfterPulse s.cg := by
  simp [phaseOf, hatt, hst]

/-! ### The phase and the level after the events of an operation -/

/-- The phase a list of events leads to, `none` where one of them is out of order. -/
def phaseAfterAll (p : Phase) (events : List Event) : Option Phase := events.foldl watchEvent (some p)

theorem watch_append {trace : List Event} {p : Phase} (h : watch trace = some p) (events : List Event) :
    watch (trace ++ events) = phaseAfterAll p events := by
  rw [watch, List.foldl_append]
  exact congrArg (events.foldl watchEvent) h

/-- The level a list of events leaves (R30, R47). -/
theorem lineLevel_append (trace events : List Event) :
    lineLevel (trace ++ events) = events.foldl levelAfter (lineLevel trace) :=
  List.foldl_append

/-! ### The order of the events, operation by operation -/

/-- The trace is in order and stands where the fields do (R171, R182, R183, R190). -/
abbrev State.InOrder (s : State) : Prop := watch s.trace = some (phaseOf s)

theorem attachState_inOrder {w h n : Option Nat} {a : Alloc} {s : State} (hg : GuardAttach s)
    (hw : s.InOrder) : (attachState w h n a s).InOrder := by
  rw [State.InOrder, phaseOf_unattached hg.1] at hw
  rcases attachState_cases w h n a s with ⟨r, hr, ht⟩ | ⟨g, _, _, ht⟩
  · rw [ht, State.InOrder, attachFailed_trace, watch_append hw, phaseOf_unattached (by exact hg.1)]
    cases r with
    | ok => exact absurd rfl hr
    | eConfig => rfl
    | eNomem => rfl
  · rw [ht, attached_eq, State.InOrder, phaseOf_between rfl (.inl rfl), List.append_assoc, watch_append hw]
    cases s.platform.pulseLineCanSleep <;> rfl

/-- R183, R249: only a cut pulse has an event; STP is no part of the phase. -/
theorem detachState_inOrder {s : State} (hc : s.Coherent) (hg : GuardDetach s) (hw : s.InOrder) :
    (detachState s).InOrder := by
  obtain ⟨_, _, ⟨htimer, _⟩, _⟩ := hc
  cases htar : s.tar with
  | false =>
    have hphase : phaseOf (detachState s) = phaseOf s := by simp only [detachState_eq, phaseOf, htar]
    rw [State.InOrder, hphase, detachState_trace, htar, watch_append hw]
    rfl
  | true =>
    obtain ⟨hst, _⟩ := htimer htar
    rw [State.InOrder, phaseOf_pulse hg.1 hst htar] at hw
    rw [State.InOrder, detachState_trace, watch_append hw, htar, detachState_eq,
      phaseOf_cancelled (by exact hg.1) (by exact hst) (by rfl)]
    rfl

theorem start_inOrder {s : State} (hg : GuardStart s) (hw : s.InOrder) :
    State.InOrder { s with st := .compose } := by
  obtain ⟨hatt, _, hst⟩ := hg
  rw [State.InOrder, phaseOf_between hatt (.inl hst)] at hw
  rw [State.InOrder, phaseOf_between (by exact hatt) (by exact .inr rfl)]
  exact hw

theorem composeFields_inOrder {s : State} (hc : s.Coherent) (hg : GuardCompose s) (bytes : List Byte)
    (ss wf : Memory) (hw : s.InOrder) : (composeFields s bytes ss wf).InOrder := by
  obtain ⟨hatt, _, hst⟩ := hg
  obtain ⟨hbsy, hdon, _⟩ := (coherent_iff_between hatt (.inr hst)).1 hc
  rw [State.InOrder, phaseOf_between hatt (.inr hst)] at hw
  rw [State.InOrder, composeFields_trace, watch_append hw,
    phaseOf_toSend (by exact hatt) (by rfl) (by exact hbsy) (by exact hdon)]
  rfl

theorem sendIssueFields_inOrder {s : State} (hg : GuardSendIssue s) (bytes : List Byte) (hw : s.InOrder) :
    (sendIssueFields s bytes).InOrder := by
  obtain ⟨hatt, _, hst, hbsy, hdon⟩ := hg
  rw [State.InOrder, phaseOf_toSend hatt hst hbsy hdon] at hw
  rw [State.InOrder, sendIssueFields_trace, watch_append hw,
    phaseOf_inTransfer (by exact hatt) (by exact hst) (by rfl)]
  simp [phaseAfterAll, watchEvent, phaseAfter, sendIssueFields_eq]

theorem completeTransfer_inOrder {s : State} (hg : GuardBusOk s) (status : Bool) (hw : s.InOrder) :
    (completeTransfer status s).InOrder := by
  obtain ⟨hatt, hst, hbsy, _⟩ := hg
  rw [State.InOrder, phaseOf_inTransfer hatt hst hbsy] at hw
  rw [State.InOrder, completeTransfer_trace, watch_append hw,
    phaseOf_ended (by exact hatt) (by exact hst) (by rfl) (by rfl)]
  simp [phaseAfterAll, watchEvent, phaseAfter, completeTransfer]

/-- R177, R243: where a failed transfer has ended, the log event comes first, and leads where a success stands. -/
theorem phaseAfterAll_logged (g : BitVec 2) (failed : Bool) (events : List Event) :
    phaseAfterAll (.ended g failed) ((if failed then [.logXferFail g] else []) ++ events) =
      phaseAfterAll (.ended g false) events := by
  cases failed with
  | false => rfl
  | true => simp [phaseAfterAll, watchEvent, phaseAfter]

theorem sendDoneState_inOrder {s : State} (hg : GuardSendDone s) (hw : s.InOrder) : (sendDoneState s).InOrder := by
  obtain ⟨hatt, _, hst, hbsy, hdon⟩ := hg
  rw [State.InOrder, phaseOf_ended hatt hst hbsy hdon] at hw
  rw [State.InOrder, sendDoneState_trace, watch_append hw, phaseAfterAll_logged, sendDoneState_eq,
    phaseOf_pulse (by exact hatt) (by rfl) (by rfl)]
  simp [phaseAfterAll, watchEvent, phaseAfter]

theorem expireState_inOrder {s : State} (hg : GuardExpire s) (hw : s.InOrder) : (expireState s).InOrder := by
  obtain ⟨hatt, _, hst, htar⟩ := hg
  rw [State.InOrder, phaseOf_pulse hatt hst htar] at hw
  rw [State.InOrder, expireState_trace, watch_append hw, phaseOf_advance (by exact hatt) (by rfl), expireState_eq]
  simp [phaseAfterAll, watchEvent, phaseAfter]

/-- R179: the next group or the next frame, as the phase after the pulse already says. -/
theorem advanceState_inOrder {s : State} (hc : s.Coherent) (hg : GuardAdvance s) (hw : s.InOrder) :
    (advanceState s).InOrder := by
  obtain ⟨hatt, _, hst, _⟩ := hg
  obtain ⟨hbsy, hdon, _⟩ := (coherent_iff_advance hatt hst).1 hc
  rw [State.InOrder, phaseOf_advance hatt hst] at hw
  rw [State.InOrder, advanceState_trace, hw, advanceState_eq, phaseAfterPulse]
  by_cases hlast : s.cg = 3
  · simp only [if_pos hlast]
    rw [phaseOf_between (by exact hatt) (by exact .inr rfl)]
  · simp only [if_neg hlast]
    rw [phaseOf_toSend (by exact hatt) (by rfl) (by exact hbsy) (by exact hdon)]

/-- R180, R249: with a detach pending and the bus free, wherever the scheduler stands, the events of DRAIN are next. -/
theorem phaseAfterAll_drain {s : State} (hc : s.Coherent) (hg : GuardDrain s) :
    phaseAfterAll (phaseOf s) ((if s.don && s.xst then [.logXferFail s.cg] else []) ++ [.detached]) = some .off := by
  obtain ⟨hatt, hstp, hbsy⟩ := hg
  cases hst : s.st with
  | idle =>
    obtain ⟨_, hdon, _⟩ := (coherent_iff_between hatt (.inl hst)).1 hc
    rw [phaseOf_between hatt (.inl hst), hdon]
    rfl
  | compose =>
    obtain ⟨_, hdon, _⟩ := (coherent_iff_between hatt (.inr hst)).1 hc
    rw [phaseOf_between hatt (.inr hst), hdon]
    rfl
  | send =>
    cases hdon : s.don with
    | false =>
      rw [phaseOf_toSend hatt hst hbsy hdon]
      rfl
    | true =>
      rw [phaseOf_ended hatt hst hbsy hdon, Bool.true_and, phaseAfterAll_logged]
      rfl
  | pulseWait =>
    obtain ⟨_, hdon, htar, _⟩ := (coherent_iff_pulseWait hatt hst).1 hc
    rw [phaseOf_cancelled hatt hst (by rw [htar, hstp]; rfl), hdon]
    rfl
  | advance =>
    obtain ⟨_, hdon, _⟩ := (coherent_iff_advance hatt hst).1 hc
    rw [phaseOf_advance hatt hst, hdon, phaseAfterPulse]
    split <;> rfl
  | reserved5 | reserved6 | reserved7 =>
    obtain ⟨_, _, _, _, _, h5, h6, h7⟩ := hc
    contradiction

theorem drainState_inOrder {s : State} (hc : s.Coherent) (hg : GuardDrain s) (hw : s.InOrder) :
    (drainState s).InOrder := by
  rw [State.InOrder, drainState_trace, watch_append hw, phaseAfterAll_drain hc hg, drainState_eq,
    phaseOf_unattached (by rfl)]

/-- R171, R182, R183: every operation appends events that are in order, and ends in their phase. -/
theorem exec_inOrder {i : Instr} {s t : State} (h : exec i s = .next t) (hw : s.InOrder) : t.InOrder := by
  cases i with
  | attach w h' n a => obtain ⟨_, hg, rfl⟩ := execAttach_next h; exact attachState_inOrder hg hw
  | detach => obtain ⟨hc, hg, rfl⟩ := execDetach_next h; exact detachState_inOrder hc hg hw
  | write a d => obtain ⟨_, _, _, _, _, _, _, _, _, rfl⟩ := execWrite_next h; exact hw
  | start => obtain ⟨_, hg, rfl⟩ := execStart_next h; exact start_inOrder hg hw
  | compose =>
    obtain ⟨hc, hg, _, _, _, _, _, _, _, _, _, _, _, _, rfl⟩ := execCompose_next h
    exact composeFields_inOrder hc hg _ _ _ hw
  | sendIssue =>
    obtain ⟨_, hg, _, _, _, _, _, _, rfl⟩ := execSendIssue_next h
    exact sendIssueFields_inOrder hg _ hw
  | sendDone => obtain ⟨_, hg, rfl⟩ := execSendDone_next h; exact sendDoneState_inOrder hg hw
  | expire => obtain ⟨_, hg, rfl⟩ := execExpire_next h; exact expireState_inOrder hg hw
  | advance => obtain ⟨hc, hg, rfl⟩ := execAdvance_next h; exact advanceState_inOrder hc hg hw
  | drain => obtain ⟨hc, hg, rfl⟩ := execDrain_next h; exact drainState_inOrder hc hg hw
  | busOk => obtain ⟨_, hg, rfl⟩ := execBusOk_next h; exact completeTransfer_inOrder hg false hw
  | busErr => obtain ⟨_, hg, rfl⟩ := execBusErr_next h; exact completeTransfer_inOrder hg true hw

/-- Settles O45: taking a request changes neither the trace nor the phase, and each operation keeps them together. -/
theorem eventsStayInOrder : Obligations.EventsStayInOrder := by
  intro s t _ hw h
  obtain ⟨requests, k, rfl | ⟨i, hi⟩⟩ := step_next h
  · exact hw
  · exact exec_inOrder hi hw

/-! ### The chip-select line -/

/-- R30, R47: every operation that writes CS ends its events on a CS_SET of the new level, and no other emits one. -/
theorem exec_lineLevel {i : Instr} {s t : State} (h : exec i s = .next t) (hl : lineLevel s.trace = s.cs) :
    lineLevel t.trace = t.cs := by
  cases i with
  | attach w h' n a =>
    obtain ⟨_, _, rfl⟩ := execAttach_next h
    rcases attachState_cases w h' n a s with ⟨r, _, ht⟩ | ⟨g, _, _, ht⟩
    · rw [ht, attachFailed_trace, lineLevel_append]
      exact hl
    · rw [ht, attached_eq, List.append_assoc, lineLevel_append, hl]
      cases s.platform.pulseLineCanSleep <;> rfl
  | detach =>
    obtain ⟨_, _, rfl⟩ := execDetach_next h
    rw [detachState_trace, lineLevel_append, hl, detachState_eq]
    cases s.tar <;> simp [levelAfter]
  | write a d => obtain ⟨_, _, _, _, _, _, _, _, _, rfl⟩ := execWrite_next h; exact hl
  | start => obtain ⟨_, _, rfl⟩ := execStart_next h; exact hl
  | compose =>
    obtain ⟨_, _, _, _, _, _, _, _, _, _, _, _, _, _, rfl⟩ := execCompose_next h
    rw [composeFields_trace, lineLevel_append]
    exact hl
  | sendIssue =>
    obtain ⟨_, _, _, _, _, _, _, _, rfl⟩ := execSendIssue_next h
    rw [sendIssueFields_trace, lineLevel_append]
    rfl
  | sendDone =>
    obtain ⟨_, _, rfl⟩ := execSendDone_next h
    rw [sendDoneState_trace, lineLevel_append, List.foldl_append]
    rfl
  | expire =>
    obtain ⟨_, _, rfl⟩ := execExpire_next h
    rw [expireState_trace, lineLevel_append]
    rfl
  | advance =>
    obtain ⟨_, _, rfl⟩ := execAdvance_next h
    rw [advanceState_trace, advanceState_eq]
    exact hl
  | drain =>
    obtain ⟨_, _, rfl⟩ := execDrain_next h
    rw [drainState_trace, lineLevel_append, hl, drainState_eq]
    cases s.don && s.xst <;> rfl
  | busOk =>
    obtain ⟨_, _, rfl⟩ := execBusOk_next h
    rw [completeTransfer_trace, lineLevel_append]
    exact hl
  | busErr =>
    obtain ⟨_, _, rfl⟩ := execBusErr_next h
    rw [completeTransfer_trace, lineLevel_append]
    exact hl

/-- Settles O46: taking a request changes neither the trace nor CS, and each operation keeps them together. -/
theorem lineLevelFollowsChipSelect : Obligations.LineLevelFollowsChipSelect := by
  intro s t hl h
  obtain ⟨requests, k, rfl | ⟨i, hi⟩⟩ := step_next h
  · exact hl
  · exact exec_lineLevel hi hl

end Sys2Proof.Machine
end

section
/-! PROOFS. The statements about one state or one step: stuck and refused operations (R24, R38, R246), the fetched request
(R72, R103), reset (R48), ATTACH (R212) and the wake slot (R45, R251). -/

namespace Sys2Proof.Machine

/-! ### The step -/

/-- R37 does not read the request that a step fetches. -/
theorem coherent_fetch_iff (s : State) : (fetch s).2.Coherent ↔ s.Coherent := by
  obtain ⟨requests, k, hf⟩ := fetch_frame s
  rw [hf]

/-- A selected operation takes its own step, unless it is a WRITE outside the bitmap (R216). -/
theorem takeStep_of_not_writeOutOfRange {i : Instr} {s : State} (h : ∀ a, exec i s ≠ .refused (.writeOutOfRange a)) :
    takeStep i s = exec i s := by
  unfold takeStep
  split
  · exact absurd ‹_› (h _)
  · rfl

/-- Settles O7: fetching is one of its two equations, and the request that is left is presented. -/
theorem stepRunsTheSelectedOperation : Obligations.StepRunsTheSelectedOperation := by
  refine ⟨fun s r rest hinbox => ?_, fun s hinbox => ?_, fun s s1 r i hfetch hc hsel hrange => ?_⟩
  · simp only [fetch, hinbox]
  · simp only [fetch, hinbox]
  · simp only [step, hfetch, present, if_pos hc, hsel]
    exact takeStep_of_not_writeOutOfRange hrange

/-- R38, R246: every operation tests R37 before it does anything. -/
theorem exec_stuck {s : State} (hc : ¬ s.Coherent) (i : Instr) : exec i s = .fault .stuckState := by
  cases i <;> exact guarded_stuck hc

/-- Settles O9: the guard of every operation and the presentation of a request both test R37 first. -/
theorem incoherentStateIsStuck : Obligations.IncoherentStateIsStuck := by
  intro s hc
  refine ⟨exec_stuck hc, ?_⟩
  rw [step, present, if_neg (mt (coherent_fetch_iff s).1 hc)]

/-! ### Reset -/

/-- Settles O10: reset is this record. -/
theorem resetFields : Obligations.ResetFields :=
  ⟨rfl, rfl, rfl, rfl, rfl, rfl, rfl, rfl, rfl, rfl, rfl, rfl, rfl, rfl, rfl⟩

/-- Settles O40: reset is unattached with nothing allocated, its trace is empty and its line high. -/
theorem invariantsAtReset : Obligations.InvariantsAtReset :=
  ⟨inv_of_atReset ⟨State.reset.toInputs, rfl⟩, rfl, rfl, rfl⟩

/-! ### ATTACH -/

/-- R37 clause 1 is the whole guard of ATTACH. -/
theorem guardAttach_of_unattached {s : State} (hc : s.Coherent) (hatt : s.att = false) : GuardAttach s := by
  obtain ⟨hst, _, hstp, hbsy, hdon, htar, hwak, _⟩ := (coherent_iff_unattached hatt).1 hc
  exact ⟨hatt, hst, hstp, hbsy, hdon, htar, hwak⟩

/-- R212: an accepted configuration and the allocator's `ok` attach. -/
theorem attachState_of_derived {w h n : Option Nat} {s : State} {g : Geometry}
    (hd : derive s.platform (w.getD defaultWidth) (h.getD defaultHeight) (n.getD defaultPanelCount) = .ok g) :
    attachState w h n .ok s = (warnLine (attachFields s g)).emit (.attached .ok) := by
  simp only [attachState, configured, hd]

/-- Settles O16: BM is the memory of the free values drawn, which holds a byte at every address. -/
theorem attachSucceeds : Obligations.AttachSucceeds := by
  intro s w h n g hc hatt hd
  refine ⟨Memory.arbitrary s.unit s.draws g.bb, rfl, Memory.arbitrary_full _ _ _, ?_⟩
  have hstep : exec (.attach w h n .ok) s = .next (attachState w h n .ok s) :=
    guarded_of hc (guardAttach_of_unattached hc hatt)
  rw [hstep, attachState_of_derived hd, attached_eq]
  rfl

/-! ### DETACH and the wake slot -/

/-- Settles O29: each of these guards asks for STP = 0, and DRAIN's for BSY = 0. -/
theorem stopDisablesAllButDrain : Obligations.StopDisablesAllButDrain := by
  intro s hc hstp
  have running : s.stp ≠ false := by simp [hstp]
  refine ⟨?_, ?_, ?_, ?_, ?_, ?_, fun hbsy => ?drain⟩
  case drain => exact guarded_refuses hc fun ⟨_, _, hfree⟩ => absurd (hbsy.symm.trans hfree) Bool.noConfusion
  all_goals exact guarded_refuses hc fun hg => running hg.2.1

/-- Settles O30: a pulse runs with the wake slot empty, and EXPIRE leaves PULSE_WAIT, where its guard fails. -/
theorem wakeIsNeverLost : Obligations.WakeIsNeverLost := by
  intro s t h
  obtain ⟨hc, hg, rfl⟩ := execExpire_next h
  have hnext : (expireState s).Coherent := expireState_coherent hc hg
  obtain ⟨hatt, _, hst, _⟩ := hg
  obtain ⟨_, _, _, hwak, _⟩ := (coherent_iff_pulseWait hatt hst).1 hc
  exact ⟨hwak, rfl, guarded_refuses hnext fun ⟨_, _, hagain, _⟩ => SchedState.noConfusion hagain⟩

end Sys2Proof.Machine
end

section
/-! PROOFS. The bitmap and its readers: what a WRITE changes (R215), that no step before the next COMPOSE reads BM (R72,
R249), what the frame of a COMPOSE depends on (R140, R152), the pixels of SETPIX and CLRPIX (R63, R108), and the
canonical form of the memories that every operation keeps (R60, log entry 7). -/

namespace Sys2Proof.Machine

/-! ### WRITE beside the other steps -/

/-- R16, R215: the WRITE of a byte inside the bitmap takes its step. -/
theorem execWrite_of {s : State} {g : Geometry} {m m' : Memory} {a : Nat} {d : Byte} (hc : s.Coherent)
    (hatt : s.att = true) (hgeom : s.geom = some g) (hbm : s.bm = some m) (ha : a < g.bb)
    (hw : m.write .bm a d = .ok m') : exec (.write a d) s = .next { s with bm := some m' } :=
  calc exec (.write a d) s
    _ = writeBody a d s := guarded_of hc hatt
    _ = settle (writeBitmap a d s) := by simp only [writeBody, State.needGeom, hgeom, if_pos ha]
    _ = .next { s with bm := some m' } := by simp only [writeBitmap, needMemory, hbm, hw, settle]

theorem detachState_with_bm (s : State) (bm : Option Memory) :
    { detachState s with bm := bm } = detachState { s with bm := bm } := by
  rw [detachState_eq, detachState_eq]

theorem sendDoneState_with_bm (s : State) (bm : Option Memory) :
    { sendDoneState s with bm := bm } = sendDoneState { s with bm := bm } := by
  rw [sendDoneState_eq, sendDoneState_eq]

theorem advanceState_with_bm (s : State) (bm : Option Memory) :
    { advanceState s with bm := bm } = advanceState { s with bm := bm } := by
  rw [advanceState_eq, advanceState_eq]

/-- R176: the SEND.ISSUE of a slice that WF holds takes its step. -/
theorem execSendIssue_of {s : State} {g : Geometry} {wf : Memory} {bytes : List Byte} (hc : s.Coherent)
    (hg : GuardSendIssue s) (hgeom : s.geom = some g) (hwf : s.wf = some wf)
    (hslice : groupSlice g s.cg wf = .ok bytes) : exec .sendIssue s = .next (sendIssueFields s bytes) :=
  calc exec .sendIssue s
    _ = settle (sendIssueState s) := guarded_of hc hg
    _ = .next (sendIssueFields s bytes) := by
      simp only [sendIssueState, State.needGeom, needMemory, hgeom, hwf, hslice, settle]

/-- R71, R72: an operation that neither writes nor snapshots the bitmap takes the same step whatever BM is. -/
theorem exec_with_bm {i : Instr} {s t : State} (h : exec i s = .next t) (hattach : ∀ w h n a, i ≠ .attach w h n a)
    (hwrite : ∀ a d, i ≠ .write a d) (hcompose : i ≠ .compose) (hdrain : i ≠ .drain) (bm : Option Memory) :
    exec i { s with bm := bm } = .next { t with bm := bm } := by
  cases i with
  | attach w h' n a => exact absurd rfl (hattach w h' n a)
  | write a d => exact absurd rfl (hwrite a d)
  | compose => exact absurd rfl hcompose
  | drain => exact absurd rfl hdrain
  | detach =>
    obtain ⟨hc, hg, rfl⟩ := execDetach_next h
    rw [detachState_with_bm]
    exact guarded_of hc hg
  | start => obtain ⟨hc, hg, rfl⟩ := execStart_next h; exact guarded_of hc hg
  | sendIssue =>
    obtain ⟨hc, hg, g, wf, bytes, hgeom, hwf, hslice, rfl⟩ := execSendIssue_next h
    exact execSendIssue_of (s := { s with bm := bm }) hc hg hgeom hwf hslice
  | sendDone =>
    obtain ⟨hc, hg, rfl⟩ := execSendDone_next h
    rw [sendDoneState_with_bm]
    exact guarded_of hc hg
  | expire => obtain ⟨hc, hg, rfl⟩ := execExpire_next h; exact guarded_of hc hg
  | advance =>
    obtain ⟨hc, hg, rfl⟩ := execAdvance_next h
    rw [advanceState_with_bm]
    exact guarded_of hc hg
  | busOk => obtain ⟨hc, hg, rfl⟩ := execBusOk_next h; exact guarded_of hc hg
  | busErr => obtain ⟨hc, hg, rfl⟩ := execBusErr_next h; exact guarded_of hc hg

/-- R249: such an operation leaves ATT, GEOM and BM, all that a WRITE reads, so the two commute. -/
theorem write_commutes {i : Instr} {s s1 s2 : State} {a : Nat} {d : Byte} (h1 : exec (.write a d) s = .next s1)
    (h2 : exec i s = .next s2) (hattach : ∀ w h n a, i ≠ .attach w h n a) (hwrite : ∀ a d, i ≠ .write a d)
    (hcompose : i ≠ .compose) (hdrain : i ≠ .drain) :
    ∃ t, exec i s1 = .next t ∧ exec (.write a d) s2 = .next t := by
  obtain ⟨_, hatt, g, m, m', hgeom, ha, hbm, hw, rfl⟩ := execWrite_next h1
  obtain ⟨hgeom', hatt', hbm', _⟩ := memoriesHaveOneWriter s s2 i h2 hattach hdrain
  have hc : s2.Coherent := exec_coherent h2 fun he => absurd he hdrain
  exact ⟨{ s2 with bm := some m' }, exec_with_bm h2 hattach hwrite hcompose hdrain (some m'),
    execWrite_of hc (hatt'.trans hatt) (hgeom'.trans hgeom) ((hbm' hwrite).trans hbm) ha hw⟩

/-- Settles O49: none of the eight operations is one that writes or snapshots the bitmap. -/
theorem writeCommutesUpToCompose : Obligations.WriteCommutesUpToCompose := by
  intro s s1 s2 addr data i hi h1 h2
  cases i with
  | attach | write | compose | drain => simp at hi
  | detach | start | sendIssue | sendDone | expire | advance | busOk | busErr =>
    exact write_commutes h1 h2 nofun nofun nofun nofun

/-! ### What a COMPOSE depends on -/

/-- R66: a whole-memory write leaves nothing of the memory it overwrites. -/
theorem Memory.writeAll_eq {name : MemoryName} {m m' : Memory} {bs : List Byte} (h : m.writeAll name bs = .ok m') :
    m' = { size := bs.length, cells := numberFrom 0 bs } := by
  obtain ⟨hsize, rfl⟩ := Memory.writeAll_ok h
  rw [hsize]

/-- R140, R152: what COMPOSE computes is a function of the geometry and the bitmap. -/
theorem composeMemories_unique {g : Geometry} {bm ss₁ wf₁ ss₂ wf₂ : Memory} {r₁ r₂ : List Byte × Memory × Memory}
    (h₁ : composeMemories g bm ss₁ wf₁ = .ok r₁) (h₂ : composeMemories g bm ss₂ wf₂ = .ok r₂) : r₁ = r₂ := by
  obtain ⟨bytes₁, ss₁', wf₁'⟩ := r₁
  obtain ⟨bytes₂, ss₂', wf₂'⟩ := r₂
  obtain ⟨zeroed₁, hsnap₁, hbuild₁⟩ := composeMemories_ok h₁
  obtain ⟨zeroed₂, hsnap₂, hbuild₂⟩ := composeMemories_ok h₂
  obtain ⟨hread₁, hss₁, hzero₁⟩ := snapshotMemories_ok hsnap₁
  obtain ⟨hread₂, hss₂, hzero₂⟩ := snapshotMemories_ok hsnap₂
  obtain rfl : bytes₁ = bytes₂ := Except.ok.inj (hread₁.symm.trans hread₂)
  obtain rfl : ss₁' = ss₂' := (Memory.writeAll_eq hss₁).trans (Memory.writeAll_eq hss₂).symm
  obtain rfl : zeroed₁ = zeroed₂ := (Memory.writeAll_eq hzero₁).trans (Memory.writeAll_eq hzero₂).symm
  obtain rfl : wf₁' = wf₂' := Except.ok.inj (hbuild₁.symm.trans hbuild₂)
  rfl

/-- Settles O50: both steps run COMPOSE's computation over one geometry and one bitmap. -/
theorem frameDependsOnBitmapAndGeometry : Obligations.FrameDependsOnBitmapAndGeometry := by
  intro s s' t t' h h' hgeom hbm
  obtain ⟨_, _, g, bm, _, _, bytes, ss₁, wf₁, hg, hb, _, _, hm, rfl⟩ := execCompose_next h
  obtain ⟨_, _, g', bm', _, _, bytes', ss₁', wf₁', hg', hb', _, _, hm', rfl⟩ := execCompose_next h'
  obtain rfl : g = g' := Option.some.inj (hg.symm.trans (hgeom.trans hg'))
  obtain rfl : bm = bm' := Option.some.inj (hb.symm.trans (hbm.trans hb'))
  obtain ⟨rfl, rfl, rfl⟩ : bytes = bytes' ∧ ss₁ = ss₁' ∧ wf₁ = wf₁' := by
    simpa only [Prod.mk.injEq] using composeMemories_unique hm hm'
  exact ⟨rfl, rfl, bytes, composeFields_trace s bytes ss₁ wf₁, composeFields_trace s' bytes ss₁ wf₁⟩

/-! ### The pixels of the bitmap -/

theorem pixelAt_of_read {name : MemoryName} {m : Memory} {p : Nat} {b : Byte} (h : m.read name (p >>> 3) = .ok b) :
    pixelAt m p = b.getLsbD (p &&& 7) := by
  obtain ⟨_, hlookup⟩ := Memory.read_ok_iff.1 h
  simp only [pixelAt, hlookup]

theorem pixelAt_write {name : MemoryName} {m m' : Memory} {a : Nat} {v : Byte} (h : m.write name a v = .ok m')
    (p : Nat) : pixelAt m' p = if p >>> 3 = a then v.getLsbD (p &&& 7) else pixelAt m p := by
  obtain ⟨_, rfl⟩ := Memory.write_ok h
  unfold pixelAt
  rw [lookupCell_insertCell]
  split_ifs <;> rfl

/-- R63: the byte and the bit of a pixel name it. -/
theorem pixelIndex_inj {p q : Nat} (hbyte : p >>> 3 = q >>> 3) (hbit : p &&& 7 = q &&& 7) : p = q := by
  simp only [Nat.shiftRight_eq_div_pow, Nat.and_two_pow_sub_one_eq_mod _ 3] at hbyte hbit
  omega

theorem pixelBit_lt (p : Nat) : p &&& 7 < 8 := Nat.lt_succ_of_le Nat.and_le_right

/-- R63: writing over the byte of pixel `p` a byte that differs from it at most in that pixel's bit changes no other
pixel. -/
theorem pixelAt_write_of_ne {name name' : MemoryName} {m m' : Memory} {p q : Nat} {last v : Byte}
    (hread : m.read name (p >>> 3) = .ok last) (hw : m.write name' (p >>> 3) v = .ok m')
    (hbits : ∀ k < 8, k ≠ p &&& 7 → v.getLsbD k = last.getLsbD k) (hq : q ≠ p) : pixelAt m' q = pixelAt m q := by
  rw [pixelAt_write hw]
  split_ifs with hbyte
  · rw [pixelAt_of_read (hbyte ▸ hread)]
    exact hbits _ (pixelBit_lt q) fun hbit => hq (pixelIndex_inj hbyte hbit)
  · rfl

/-- R215: in an attached state, a WRITE over a byte the bitmap holds writes that byte. -/
theorem exec_write_of_read {s : State} {g : Geometry} {bm : Memory} {a : Nat} {last : Byte} (hs : s.Inv)
    (hatt : s.att = true) (hgeom : s.geom = some g) (hbm : s.bm = some bm) (hread : bm.read .bm a = .ok last)
    (v : Byte) : ∃ bm', bm.write .bm a v = .ok bm' ∧ exec (.write a v) s = .next { s with bm := some bm' } := by
  obtain ⟨g0, bm0, _, _, hg0, hb0, _, _, hf⟩ := hs.attached hatt
  obtain rfl : g0 = g := Option.some.inj (hg0.symm.trans hgeom)
  obtain rfl : bm0 = bm := Option.some.inj (hb0.symm.trans hbm)
  obtain ⟨ha, _⟩ := Memory.read_ok_iff.1 hread
  have hw : bm0.write .bm a v = .ok { bm0 with cells := insertCell a v bm0.cells } := if_pos ha
  exact ⟨_, hw, execWrite_of hs.coherent hatt hgeom hbm (hf.bmSize ▸ ha) hw⟩

/-- R63, R108: bit `j` of weight 2^j is the one bit set in the byte that SETPIX and CLRPIX shift. -/
theorem getLsbD_one_shiftLeft {j k : Nat} (hk : k < 8) : (1#8 <<< j).getLsbD k = decide (k = j) := by
  rw [← BitVec.twoPow_eq, BitVec.getLsbD_twoPow, Bool.eq_iff_iff]
  simp only [Bool.and_eq_true, decide_eq_true_eq]
  omega

theorem getLsbD_or_bit (b : Byte) {j k : Nat} (hk : k < 8) :
    (b ||| (1#8 <<< j)).getLsbD k = (b.getLsbD k || decide (k = j)) := by
  rw [BitVec.getLsbD_or, getLsbD_one_shiftLeft hk]

theorem getLsbD_andNot_bit (b : Byte) {j k : Nat} (hk : k < 8) :
    (b &&& ~~~ (1#8 <<< j)).getLsbD k = (b.getLsbD k && !decide (k = j)) := by
  rw [BitVec.getLsbD_and, BitVec.getLsbD_not, getLsbD_one_shiftLeft hk, decide_eq_true hk, Bool.true_and]

/-- Settles O57: the byte each of the two writes differs from the one it replaces in the pixel's own bit alone. -/
theorem setPixAndClrPixChangeOnePixel : Obligations.SetPixAndClrPixChangeOnePixel := by
  intro s g bm last x y hs hatt hgeom hbm _ _ hread
  unfold setPix clrPix
  generalize y * g.w + x = p at hread ⊢
  obtain ⟨lit, hlit, hset⟩ := exec_write_of_read hs hatt hgeom hbm hread (last ||| (1#8 <<< (p &&& 7)))
  obtain ⟨dark, hdark, hclr⟩ := exec_write_of_read hs hatt hgeom hbm hread (last &&& ~~~ (1#8 <<< (p &&& 7)))
  refine ⟨lit, dark, hset, hclr, ?_, ?_, fun q hq => ⟨?_, ?_⟩⟩
  · rw [pixelAt_write hlit, if_pos rfl, getLsbD_or_bit _ (pixelBit_lt p), decide_eq_true rfl, Bool.or_true]
  · rw [pixelAt_write hdark, if_pos rfl, getLsbD_andNot_bit _ (pixelBit_lt p), decide_eq_true rfl, Bool.not_true,
      Bool.and_false]
  · refine pixelAt_write_of_ne hread hlit (fun k hk hne => ?_) hq
    rw [getLsbD_or_bit _ hk, decide_eq_false hne, Bool.or_false]
  · refine pixelAt_write_of_ne hread hdark (fun k hk hne => ?_) hq
    rw [getLsbD_andNot_bit _ hk, decide_eq_false hne, Bool.not_false, Bool.and_true]

/-! ### The canonical form -/

theorem memoriesCanonical_iff (s : State) :
    s.memoriesCanonical = true ↔ canonicalWhereAllocated s.bm = true ∧ canonicalWhereAllocated s.ss = true ∧
      canonicalWhereAllocated s.wf = true := by
  simp only [State.memoriesCanonical, Bool.and_eq_true, and_assoc]

/-- Settles O44: a failed ATTACH touches no memory and a successful one allocates canonical ones, a WRITE inserts an
address inside BM, a COMPOSE fills SS and WF, a DRAIN frees all three, and no other operation writes one. -/
theorem memoriesStayCanonical : Obligations.MemoriesStayCanonical := by
  intro s t i hs h
  rw [memoriesCanonical_iff] at hs ⊢
  obtain ⟨hbm, hss, hwf⟩ := hs
  cases i with
  | attach w h' n a =>
    obtain ⟨_, _, rfl⟩ := execAttach_next h
    rcases attachState_cases w h' n a s with ⟨r, _, ht⟩ | ⟨g, _, _, ht⟩
    · rw [ht]
      exact ⟨hbm, hss, hwf⟩
    · rw [ht, attached_eq]
      exact ⟨Memory.wf_of_full (Memory.arbitrary_full s.unit s.draws g.bb), Memory.unspecified_wf g.bb,
        Memory.unspecified_wf g.fb⟩
  | write a d =>
    obtain ⟨_, _, g, m, m', _, _, hm, hw, rfl⟩ := execWrite_next h
    rw [hm] at hbm
    exact ⟨Memory.write_wf hw hbm, hss, hwf⟩
  | compose =>
    obtain ⟨_, _, _, _, _, _, _, _, _, _, _, _, _, hm, rfl⟩ := execCompose_next h
    obtain ⟨hssFull, _, hwfFull, _⟩ := composeMemories_full hm
    exact ⟨hbm, Memory.wf_of_full hssFull, Memory.wf_of_full hwfFull⟩
  | drain =>
    obtain ⟨_, _, rfl⟩ := execDrain_next h
    exact ⟨rfl, rfl, rfl⟩
  | detach | start | sendIssue | sendDone | expire | advance | busOk | busErr =>
    obtain ⟨_, _, hbm', hmem⟩ := memoriesHaveOneWriter s t _ h nofun nofun
    obtain ⟨hss', hwf'⟩ := hmem nofun
    rw [hbm' nofun, hss', hwf']
    exact ⟨hbm, hss, hwf⟩

end Sys2Proof.Machine
end

section
/-! PROOFS. The operation map (30_encoding.md): no two rows share a word, so a word decodes to the one row it matches
(O1, O2, O3); a row matches the word a state forms exactly where its guard holds (O4); what each request selects (O5,
O6), and what one that selects nothing leaves (O8, O20, O31); and the effect of a DETACH (O18). -/

namespace Sys2Proof

/-! ### The rows are disjoint -/

/-- A row of the table: its match word and its mask word (R100). -/
def rowOf (i : Instr) : Selector × Selector := (matchWord i, maskWord i)

/-- Some bit that both rows look at separates them. -/
abbrev RowsDiffer (r q : Selector × Selector) : Prop := r.1 &&& q.2 ≠ q.1 &&& r.2

theorem rows_operations (o : Operands) : (operations o).map rowOf = (operations Operands.zero).map rowOf := rfl

theorem rows_pairwise_differ (o : Operands) : ((operations o).map rowOf).Pairwise RowsDiffer := by
  rw [rows_operations]
  decide

theorem rowMatches_iff (w : Selector) (i : Instr) : rowMatches w i = true ↔ w &&& maskWord i = matchWord i := by
  simp [rowMatches]

/-- A word that matches two rows gives both the same value on the bits they share. -/
theorem not_rowsDiffer_of_rowMatches {w : Selector} {i j : Instr} (hi : rowMatches w i = true)
    (hj : rowMatches w j = true) : ¬ RowsDiffer (rowOf i) (rowOf j) := by
  rw [rowMatches_iff] at hi hj
  simp only [RowsDiffer, rowOf, ← hi, ← hj, BitVec.and_assoc, BitVec.and_comm (maskWord i), not_not]

theorem eq_of_rowMatches {w : Selector} {o : Operands} {i j : Instr} (hi : i ∈ operations o) (hj : j ∈ operations o)
    (hwi : rowMatches w i = true) (hwj : rowMatches w j = true) : i = j := by
  by_contra hne
  have differ := List.pairwise_map.1 (rows_pairwise_differ o)
  have : Std.Symm fun i j => RowsDiffer (rowOf i) (rowOf j) := ⟨fun _ _ h => h.symm⟩
  exact not_rowsDiffer_of_rowMatches hwi hwj (differ.forall hi hj hne)

/-- Settles O3: any two rows differ on a bit that both look at. -/
theorem noSelectorMatchesTwoRows : Obligations.NoSelectorMatchesTwoRows :=
  fun _ _ _ _ => eq_of_rowMatches

/-! ### Decoding -/

/-- R103: the decoder finds the one row that the word matches. -/
theorem decode_eq_ok_iff {w : Selector} {o : Operands} {i : Instr} :
    decode w o = .ok i ↔ i ∈ operations o ∧ rowMatches w i = true := by
  unfold decode
  cases hfind : (operations o).find? (rowMatches w) with
  | none =>
    rw [List.find?_eq_none] at hfind
    exact ⟨nofun, fun ⟨hi, hw⟩ => absurd hw (hfind i hi)⟩
  | some j =>
    have hj : j ∈ operations o := List.mem_of_find?_eq_some hfind
    have hwj : rowMatches w j = true := List.find?_some hfind
    simp only [Except.ok.injEq]
    exact ⟨fun h => h ▸ ⟨hj, hwj⟩, fun ⟨hi, hwi⟩ => eq_of_rowMatches hj hi hwj hwi⟩

/-- R104: a word that matches no row is rejected by its name. -/
theorem decode_eq_error {w : Selector} {o : Operands} (h : ∀ i ∈ operations o, rowMatches w i = false) :
    decode w o = .error (rejectionOf w) := by
  have hnone : (operations o).find? (rowMatches w) = none := List.find?_eq_none.2 fun i hi => by simp [h i hi]
  simp only [decode, hnone]

theorem mem_operations_operandsOf (i : Instr) : i ∈ operations (operandsOf i) := by
  cases i <;> simp [operations, operandsOf]

/-- Each row's match word lies inside its mask, which covers AG and RQ. -/
theorem rowWord (i : Instr) : Laws.RowWord.Statement i := by
  cases i with
  | attach w h n a => exact Laws.RowWord.attach w h n a
  | write a d => exact Laws.RowWord.write a d
  | detach => exact Laws.RowWord.detach
  | start => exact Laws.RowWord.start
  | compose => exact Laws.RowWord.compose
  | sendIssue => exact Laws.RowWord.sendIssue
  | sendDone => exact Laws.RowWord.sendDone
  | expire => exact Laws.RowWord.expire
  | advance => exact Laws.RowWord.advance
  | drain => exact Laws.RowWord.drain
  | busOk => exact Laws.RowWord.busOk
  | busErr => exact Laws.RowWord.busErr

/-- R100: the encoder's word matches its row, whatever fills the "don't care" bits. -/
theorem rowMatches_encodeWith (fill : Selector) (i : Instr) : rowMatches (encodeWith fill i) i = true := by
  obtain ⟨hinside, _⟩ := rowWord i
  rw [rowMatches_iff, encodeWith, BitVec.and_or_distrib_right, hinside, BitVec.and_assoc,
    BitVec.and_comm (~~~ maskWord i), BitVec.and_not_self]
  simp

theorem decode_encodeWith (fill : Selector) (i : Instr) : decode (encodeWith fill i) (operandsOf i) = .ok i :=
  decode_eq_ok_iff.2 ⟨mem_operations_operandsOf i, rowMatches_encodeWith fill i⟩

/-- Settles O2: the encoder's word matches the operation's row, and no other row. -/
theorem decodeOfEncodeWithAnyFill : Obligations.DecodeOfEncodeWithAnyFill :=
  fun _ i fill _ => ⟨decode_encodeWith fill i, decode_encodeWith 0 i⟩

/-- Settles O1: each word is compared with the twelve rows. -/
theorem selectorWordsOfTheTable : Obligations.SelectorWordsOfTheTable := by
  unfold Obligations.SelectorWordsOfTheTable
  decide

namespace Machine

/-! ### The word a state forms -/

/-- R98: a word is its fields. -/
theorem selector_eq_iff (v w : Selector) :
    v = w ↔ agentField v = agentField w ∧ requestField v = requestField w ∧
      v.extractLsb' 0 3 = w.extractLsb' 0 3 ∧ v.getLsbD 3 = w.getLsbD 3 ∧ v.getLsbD 4 = w.getLsbD 4 ∧
      v.getLsbD 5 = w.getLsbD 5 ∧ v.getLsbD 6 = w.getLsbD 6 ∧ v.getLsbD 7 = w.getLsbD 7 ∧
      v.getLsbD 8 = w.getLsbD 8 := by
  refine ⟨fun h => h ▸ ⟨rfl, rfl, rfl, rfl, rfl, rfl, rfl, rfl, rfl⟩, fun ⟨hag, hrq, hfields⟩ => ?_⟩
  have hv := selectorOf_withSelectorFields State.reset v
  have hs := (selectorOf_eq_iff _ v).1 hv
  rw [hag, hrq] at hv
  refine hv.symm.trans ((selectorOf_eq_iff _ w).2 ?_)
  grind

/-- R100: every row asks for its agent and its request code. -/
theorem fields_maskWord (i : Instr) : agentField (maskWord i) = BitVec.allOnes 3 ∧
    requestField (maskWord i) = BitVec.allOnes 4 := by
  cases i <;> constructor <;> simp only [maskWord] <;> decide

/-- R97: a row that looks at ST names one scheduler state. -/
theorem schedCode_and_iff (st : SchedState) (c : BitVec 3) : schedCode st &&& 7#3 = c ↔ st = schedOfCode c := by
  rw [show schedCode st &&& 7#3 = schedCode st from BitVec.and_allOnes]
  exact ⟨fun h => by rw [← h, schedOfCode_schedCode], fun h => by rw [h, schedCode_schedOfCode]⟩

/-- R98, R100: the word of a state matches a row exactly where the agent, the request code and the fields do. -/
theorem rowMatches_selectorOf_iff_fields (s : State) (ag : BitVec 3) (rq : BitVec 4) (i : Instr) :
    rowMatches (selectorOf s ag rq) i = true ↔ ag = agentOf i ∧ rq = requestCodeOf i ∧
      schedCode s.st &&& (maskWord i).extractLsb' 0 3 = (matchWord i).extractLsb' 0 3 ∧
      (s.att && (maskWord i).getLsbD 3) = (matchWord i).getLsbD 3 ∧
      (s.stp && (maskWord i).getLsbD 4) = (matchWord i).getLsbD 4 ∧
      (s.bsy && (maskWord i).getLsbD 5) = (matchWord i).getLsbD 5 ∧
      (s.don && (maskWord i).getLsbD 6) = (matchWord i).getLsbD 6 ∧
      (s.tar && (maskWord i).getLsbD 7) = (matchWord i).getLsbD 7 ∧
      (s.wak && (maskWord i).getLsbD 8) = (matchWord i).getLsbD 8 := by
  obtain ⟨hatt, hstp, hbsy, hdon, htar, hwak⟩ := flags_selectorOf s ag rq
  obtain ⟨hag, hrq⟩ := fields_maskWord i
  have hagent : agentField (selectorOf s ag rq &&& maskWord i) = ag := by
    rw [agentField, BitVec.extractLsb'_and, ← agentField, ← agentField, hag, agentField_selectorOf,
      BitVec.and_allOnes]
  have hrequest : requestField (selectorOf s ag rq &&& maskWord i) = rq := by
    rw [requestField, BitVec.extractLsb'_and, ← requestField, ← requestField, hrq, requestField_selectorOf,
      BitVec.and_allOnes]
  rw [rowMatches_iff, selector_eq_iff, hagent, hrequest]
  simp only [BitVec.extractLsb'_and, BitVec.getLsbD_and, sched_selectorOf, hatt, hstp, hbsy, hdon, htar, hwak]
  rfl

/-- R100: those fields are the guard. -/
theorem rowMatches_selectorOf_iff (s : State) (ag : BitVec 3) (rq : BitVec 4) (i : Instr) :
    rowMatches (selectorOf s ag rq) i = true ↔ ag = agentOf i ∧ rq = requestCodeOf i ∧ guardOf i s := by
  rw [rowMatches_selectorOf_iff_fields]
  refine and_congr_right fun _ => and_congr_right fun _ => ?_
  cases i with
  | detach | write | drain => simp [maskWord, matchWord, guardOf]
  | attach | start | compose | sendIssue | sendDone | expire | advance | busOk | busErr =>
    simp [maskWord, matchWord, guardOf, schedCode_and_iff, schedOfCode]
    tauto

/-- Settles O4: the row is the only one the word can match, and it matches where the guard holds. -/
theorem selectedExactlyWhenGuarded : Obligations.SelectedExactlyWhenGuarded := by
  intro s i
  rw [decode_eq_ok_iff, rowMatches_selectorOf_iff]
  exact ⟨fun ⟨_, _, _, hg⟩ => hg, fun hg => ⟨mem_operations_operandsOf i, rfl, rfl, hg⟩⟩

/-! ### What a request selects -/

/-- R103: an agent's request selects the one operation of its agent and code whose guard holds. -/
theorem operationOf_raw_eq_some_iff {s : State} {ag : BitVec 3} {rq : BitVec 4} {ops : Operands} {i : Instr} :
    operationOf (.raw ag rq ops) s = some i ↔
      i ∈ operations ops ∧ ag = agentOf i ∧ rq = requestCodeOf i ∧ guardOf i s := by
  rw [← rowMatches_selectorOf_iff, ← decode_eq_ok_iff]
  cases hd : decode (selectorOf s ag rq) ops <;> simp [operationOf, hd]

/-- R103, R107: a line selects the operation it names where its guard holds, and no other. -/
theorem operationOf_line (i : Instr) (s : State) :
    (guardOf i s → operationOf (.line i) s = some i) ∧ (¬ guardOf i s → operationOf (.line i) s = none) := by
  rw [← selectedExactlyWhenGuarded s i]
  cases hd : decode (selectorOf s (agentOf i) (requestCodeOf i)) (operandsOf i) <;> simp +contextual [operationOf, hd]

/-- R99: every row asks for a request code of its agent. -/
theorem requestKnown_row (i : Instr) : requestKnown (agentOf i) (requestCodeOf i) = true := by
  cases i <;> simp only [agentOf, requestCodeOf, matchWord] <;> decide

/-- Settles O5: no row asks for such a request, and it is named before the state is looked at. -/
theorem reservedRequestsSelectNothing : Obligations.ReservedRequestsSelectNothing := by
  intro s ag rq ops hunknown
  have hrows : ∀ i ∈ operations ops, rowMatches (selectorOf s ag rq) i = false := by
    intro i _
    by_contra hmatch
    obtain ⟨rfl, rfl, _⟩ := (rowMatches_selectorOf_iff s ag rq i).1 (by simpa using hmatch)
    simp [requestKnown_row] at hunknown
  have hreject := decode_eq_error hrows
  refine ⟨by simp only [operationOf, hreject], hreject.trans ?_⟩
  simp only [rejectionOf, agentField_selectorOf, requestField_selectorOf, hunknown]
  by_cases hag : 5 ≤ ag.toNat <;> simp [hag]

/-- Settles O6: DRAIN's guard holds, and the guard of every other WORK operation asks for STP = 0. -/
theorem workSelectsDrainAfterDetach : Obligations.WorkSelectsDrainAfterDetach := by
  intro s ops hg
  obtain ⟨hline, _⟩ := operationOf_line .drain s
  refine ⟨operationOf_raw_eq_some_iff.2 ⟨by simp [operations], rfl, rfl, hg⟩, hline hg, ?_⟩
  have stopped : s.stp ≠ false := by simp [hg.2.1]
  intro i hi
  refine (operationOf_line i s).2 fun hguard => stopped ?_
  simp only [List.mem_cons, List.not_mem_nil, or_false] at hi
  rcases hi with rfl | rfl | rfl | rfl | rfl <;> exact hguard.2.1

/-! ### Requests that select nothing -/

/-- Settles O8: neither way of selecting no step reaches a next state of its own. -/
theorem refusedRequestLeavesTheBlock : Obligations.RefusedRequestLeavesTheBlock := by
  rintro s s1 r hfetch hc (hnone | ⟨i, a, hsome, hrange⟩)
  · simp only [step, hfetch, present, if_pos hc, hnone]
  · simp only [step, hfetch, present, if_pos hc, hsome, takeStep, hrange]

/-- R181: while a transfer is outstanding or a pulse runs, the guard of every WORK operation fails. -/
theorem work_waits {s : State} {i : Instr} (hc : s.Coherent) (hwait : s.bsy = true ∨ s.tar = true)
    (hwork : agentOf i = 0) : ¬ guardOf i s := by
  obtain ⟨_, ⟨htransfer, _⟩, ⟨htimer, _⟩, _⟩ := hc
  have hplace : (s.bsy = true ∧ s.st = .send) ∨ (s.st = .pulseWait ∧ s.stp = false) :=
    hwait.imp (fun hbsy => ⟨hbsy, htransfer (.inl hbsy)⟩) htimer
  cases i with
  | attach | detach | write | expire | busOk | busErr => simp [agentOf, agentField, matchWord] at hwork
  | start | compose =>
    rintro ⟨_, _, hst⟩
    simp [hst] at hplace
  | advance =>
    rintro ⟨_, _, hst, _⟩
    simp [hst] at hplace
  | sendIssue | sendDone =>
    rintro ⟨_, _, hst, hbsy, _⟩
    simp [hst, hbsy] at hplace
  | drain =>
    rintro ⟨_, hstp, hbsy⟩
    simp [hstp, hbsy] at hplace

/-- Settles O31: no WORK operation has its guard. -/
theorem workWaits : Obligations.WorkWaits := by
  intro s ops rest hc hinbox hwait
  have hfetch : fetch s = (.raw 0 0 ops, { s with inbox := rest }) := by simp only [fetch, hinbox]
  refine refusedRequestLeavesTheBlock s _ _ hfetch hc (.inl (Option.eq_none_iff_forall_ne_some.2 fun i hi => ?_))
  obtain ⟨_, hwork, _, hg⟩ := operationOf_raw_eq_some_iff.1 hi
  exact work_waits (s := { s with inbox := rest }) hc hwait hwork.symm hg

/-- R216: a WRITE at an address outside the bitmap of an attached block. -/
theorem exec_write_outOfRange {s : State} {g : Geometry} {a : Nat} {d : Byte} (hc : s.Coherent) (hatt : s.att = true)
    (hgeom : s.geom = some g) (ha : g.bb ≤ a) : exec (.write a d) s = .refused (.writeOutOfRange a) :=
  calc exec (.write a d) s
    _ = writeBody a d s := guarded_of hc hatt
    _ = .refused (.writeOutOfRange a) := by simp only [writeBody, State.needGeom, hgeom, if_neg (Nat.not_lt.2 ha)]

/-- Settles O20: unattached, WRITE's guard fails; attached, it is selected and its address is outside. -/
theorem writeOutOfRangeIsRefused : Obligations.WriteOutOfRangeIsRefused := by
  intro s addr data rest hc hinbox
  have hfetch : fetch s = (.line (.write addr data), { s with inbox := rest }) := by simp only [fetch, hinbox]
  have hstep := refusedRequestLeavesTheBlock s _ _ hfetch hc
  obtain ⟨hselected, hnone⟩ := operationOf_line (.write addr data) { s with inbox := rest }
  constructor
  · intro hatt
    have hguard : ¬ GuardWrite s := by simp [hatt]
    exact ⟨guarded_refuses hc hguard, hstep (.inl (hnone hguard))⟩
  · intro g hatt hgeom ha
    have hrange : exec (.write addr data) { s with inbox := rest } = .refused (.writeOutOfRange addr) :=
      exec_write_outOfRange hc hatt hgeom ha
    exact ⟨exec_write_outOfRange hc hatt hgeom ha, hstep (.inr ⟨_, addr, hselected hatt, hrange⟩)⟩

/-- Settles O18: DETACH's next state, with its guard decided. -/
theorem detachEffect : Obligations.DetachEffect := by
  intro s hc
  have hstep (hg : GuardDetach s) : exec .detach s = .next (detachState s) := guarded_of hc hg
  refine ⟨fun hg htar => ?_, fun hg htar => ?_, guarded_refuses hc⟩
  · rw [hstep hg, detachState_eq]
    simp [htar]
  · rw [hstep hg, detachState, htar]
    rfl

end Machine

end Sys2Proof
end

section
/-! PROOFS. The geometry and the compositor's addresses (R121 to R127, R141, R146, R151): what an accepted geometry's
registers are of each other, which coordinates a Wire Frame byte carries, and that BUILD leaves the closed form of R147
(O36, O37). -/

namespace Sys2Proof.Machine

theorem mul_add_parts {r n : Nat} (q : Nat) (hr : r < n) : (q * n + r) / n = q ∧ (q * n + r) % n = r :=
  (Nat.div_mod_unique (Nat.zero_lt_of_lt hr)).2 ⟨by rw [Nat.mul_comm, Nat.add_comm], hr⟩

/-! ### Accepted geometries -/

section Accepted

variable {g : Geometry} (hg : g.Accepted)
include hg

theorem Geometry.Accepted.pc_eq : g.pc = 4 * g.cpg := by
  obtain ⟨⟨_, _, hpc, _⟩, he⟩ := hg
  have h1 : g.pc = g.w / g.n := congrArg Geometry.pc he
  have h2 : g.cpg = g.w / g.n / 4 := congrArg Geometry.cpg he
  omega

theorem Geometry.Accepted.cpg_even : g.cpg % 2 = 0 := by
  obtain ⟨⟨_, _, _, hcpg⟩, he⟩ := hg
  exact (congrArg (fun g => g.cpg % 2) he).trans hcpg

theorem Geometry.Accepted.w_eq : g.w = g.n * g.pc := by
  obtain ⟨⟨_, hw, _⟩, he⟩ := hg
  have h1 : g.pc = g.w / g.n := congrArg Geometry.pc he
  rw [h1, Nat.mul_div_cancel' (Nat.dvd_of_mod_eq_zero hw)]

theorem Geometry.Accepted.h_le : g.h ≤ 8 * g.r := by
  obtain ⟨_, he⟩ := hg
  have h1 : g.r = (g.h + 7) / 8 := congrArg Geometry.r he
  omega

theorem Geometry.Accepted.r_pos : 0 < g.r := by
  obtain ⟨⟨⟨_, hh, _⟩, _⟩, he⟩ := hg
  have h1 : g.r = (g.h + 7) / 8 := congrArg Geometry.r he
  omega

theorem Geometry.Accepted.pbb_eq : g.pbb = g.cpg * g.r + 1 := by
  obtain ⟨_, he⟩ := hg
  rw [he]
  rfl

theorem Geometry.Accepted.pbb_pos : 0 < g.pbb :=
  Nat.lt_of_lt_of_eq (Nat.succ_pos _) hg.pbb_eq.symm

theorem Geometry.Accepted.gb_eq : g.gb = g.n * g.pbb := by
  obtain ⟨_, he⟩ := hg
  rw [he]
  rfl

theorem Geometry.Accepted.fb_eq : g.fb = 4 * g.gb := by
  obtain ⟨_, he⟩ := hg
  rw [he]
  rfl

/-- R124: a row of the display is whole bytes, so the Linear Bitmap has no part of a byte. -/
theorem Geometry.Accepted.bb_eq : 8 * g.bb = g.w * g.h := by
  have h1 : g.bb = g.w * g.h / 8 := congrArg Geometry.bb hg.2
  have hw : 8 ∣ g.w := by
    rw [hg.w_eq, hg.pc_eq]
    exact Dvd.dvd.mul_left (by have := hg.cpg_even; omega) _
  rw [h1, Nat.mul_div_cancel' (hw.mul_right _)]

/-! ### The bytes of the Wire Frame -/

/-- R96, R147: an offset's group slice, panel block and place in the block. -/
theorem Geometry.Accepted.offset_parts {p k : Nat} (hp : p < g.n) (hk : k < g.pbb) (grp : Nat) :
    (grp * g.gb + p * g.pbb + k) / g.gb = grp ∧ (grp * g.gb + p * g.pbb + k) % g.gb / g.pbb = p ∧
      (grp * g.gb + p * g.pbb + k) % g.gb % g.pbb = k := by
  have hin : p * g.pbb + k < g.gb :=
    calc p * g.pbb + k
      _ < (p + 1) * g.pbb := by rw [Nat.add_mul]; omega
      _ ≤ g.gb := hg.gb_eq ▸ Nat.mul_le_mul_right _ hp
  obtain ⟨hgrp, hrest⟩ := mul_add_parts grp hin
  rw [← Nat.add_assoc] at hgrp hrest
  rw [hrest]
  exact ⟨hgrp, mul_add_parts p hk⟩

/-- R126: those parts are an offset inside the Wire Frame. -/
theorem Geometry.Accepted.offset_lt {grp p k : Nat} (hgrp : grp < 4) (hp : p < g.n) (hk : k < g.pbb) :
    grp * g.gb + p * g.pbb + k < g.fb := by
  have hgb : 0 < g.gb := hg.gb_eq ▸ Nat.mul_pos (by omega) (by omega)
  rw [hg.fb_eq, ← Nat.div_lt_iff_lt_mul hgb, (hg.offset_parts hp hk grp).1]
  exact hgrp

/-- R126, R127: every offset has such parts. -/
theorem Geometry.Accepted.exists_offset {o : Nat} (ho : o < g.fb) :
    ∃ grp < 4, ∃ p < g.n, ∃ k < g.pbb, o = grp * g.gb + p * g.pbb + k := by
  have hpbb := hg.pbb_pos
  have hgb : 0 < g.gb := by
    rw [hg.fb_eq] at ho
    omega
  refine ⟨o / g.gb, ?_, o % g.gb / g.pbb, ?_, o % g.gb % g.pbb, Nat.mod_lt _ hpbb, ?_⟩
  · rw [Nat.div_lt_iff_lt_mul hgb, ← hg.fb_eq]
    exact ho
  · rw [Nat.div_lt_iff_lt_mul hpbb, ← hg.gb_eq]
    exact Nat.mod_lt _ hgb
  · rw [Nat.add_assoc, Nat.div_add_mod', Nat.div_add_mod']

theorem Geometry.Accepted.offset_inj {grp p k grp' p' k' : Nat} (hp : p < g.n) (hk : k < g.pbb) (hp' : p' < g.n)
    (hk' : k' < g.pbb) :
    grp * g.gb + p * g.pbb + k = grp' * g.gb + p' * g.pbb + k' ↔ grp = grp' ∧ p = p' ∧ k = k' := by
  refine ⟨fun h => ?_, fun ⟨h1, h2, h3⟩ => by rw [h1, h2, h3]⟩
  obtain ⟨h1, h2, h3⟩ := hg.offset_parts hp hk grp
  obtain ⟨h1', h2', h3'⟩ := hg.offset_parts hp' hk' grp'
  rw [h] at h1 h2 h3
  exact ⟨h1.symm.trans h1', h2.symm.trans h2', h3.symm.trans h3'⟩

/-- R147: the closed form of the byte at those parts. -/
theorem Geometry.Accepted.wireByte_offset {p k : Nat} (hp : p < g.n) (hk : k < g.pbb) (ss : Memory) (grp : Nat) :
    wireByte g ss (grp * g.gb + p * g.pbb + k) = blockByte g ss grp p k := by
  obtain ⟨h1, h2, h3⟩ := hg.offset_parts hp hk grp
  rw [wireByte, h1, h2, h3]

/-- R95: the place of data byte (c, r) in its block. -/
theorem Geometry.Accepted.data_lt {c r : Nat} (hc : c < g.cpg) (hr : r < g.r) : 1 + (c * g.r + r) < g.pbb := by
  have : (c + 1) * g.r ≤ g.cpg * g.r := Nat.mul_le_mul_right _ hc
  rw [Nat.add_mul] at this
  have := hg.pbb_eq
  omega

/-! ### The coordinates a byte carries -/

/-- R141: the column swap stays inside the panel's columns of a group. -/
theorem Geometry.Accepted.xor_one_lt {c : Nat} (hc : c < g.cpg) : c ^^^ 1 < g.cpg := by
  have heven := hg.cpg_even
  have hhalf : (c ^^^ 1) / 2 = c / 2 := by simp [Nat.xor_div_two]
  omega

/-- R141, R151: a column's panel, group and place in the group name it. -/
theorem Geometry.Accepted.eq_displayColumn_iff {x grp p c : Nat} (hgrp : grp < 4) (hc : c < g.cpg) :
    x = displayColumn g grp p c ↔ groupOf x = grp ∧ panelOf g x = p ∧ colInGroup g x = c := by
  have hpc := hg.pc_eq
  constructor
  · rintro rfl
    have hc' := hg.xor_one_lt hc
    have hin : 4 * (c ^^^ 1) + grp < g.pc := by omega
    obtain ⟨hpanel, hmod⟩ := mul_add_parts p hin
    rw [← Nat.add_assoc] at hpanel hmod
    refine ⟨?_, hpanel, ?_⟩
    · have hdvd : 4 ∣ p * g.pc := hpc ▸ Dvd.dvd.mul_left (Nat.dvd_mul_right 4 _) p
      simp only [groupOf, groups, displayColumn]
      omega
    · have hdiv : (4 * (c ^^^ 1) + grp) / 4 = c ^^^ 1 := by omega
      rw [colInGroup, displayColumn, hmod, groups, hdiv, Nat.xor_assoc, Nat.xor_self, Nat.xor_zero]
  · rintro ⟨rfl, rfl, rfl⟩
    have hgroup : x % g.pc % 4 = x % 4 := Nat.mod_mod_of_dvd x (hpc ▸ Nat.dvd_mul_right 4 _)
    have hpanel := Nat.div_add_mod' x g.pc
    rw [displayColumn, colInGroup, Nat.xor_assoc, Nat.xor_self, Nat.xor_zero, panelOf, groupOf, groups]
    omega

theorem Geometry.Accepted.displayColumn_lt {grp p c : Nat} (hgrp : grp < 4) (hp : p < g.n) (hc : c < g.cpg) :
    displayColumn g grp p c < g.w := by
  have hpc := hg.pc_eq
  have := hg.xor_one_lt hc
  calc displayColumn g grp p c
    _ < (p + 1) * g.pc := by rw [displayColumn, Nat.add_mul]; omega
    _ ≤ g.w := hg.w_eq ▸ Nat.mul_le_mul_right _ hp

theorem Geometry.Accepted.panelOf_lt {x : Nat} (hx : x < g.w) : panelOf g x < g.n := by
  have hw := hg.w_eq
  have hpc : 0 < g.pc := Nat.pos_of_ne_zero fun h => by simp [hw, h] at hx
  rw [panelOf, Nat.div_lt_iff_lt_mul hpc, ← hw]
  exact hx

theorem Geometry.Accepted.colInGroup_lt {x : Nat} (hx : x < g.w) : colInGroup g x < g.cpg := by
  have hw := hg.w_eq
  have hpc : 0 < g.pc := Nat.pos_of_ne_zero fun h => by simp [hw, h] at hx
  have hcol : x % g.pc / groups < g.cpg := by
    have := Nat.mod_lt x hpc
    have := hg.pc_eq
    simp only [groups]
    omega
  exact hg.xor_one_lt hcol

theorem Geometry.Accepted.vertReg_lt {y : Nat} (hy : y < g.h) : vertReg g y < g.r := by
  have := hg.h_le
  simp only [vertReg, yRev]
  omega

omit hg in
theorem groupOf_lt (x : Nat) : groupOf x < 4 := Nat.mod_lt x (by decide)

omit hg in
/-- R141, R151: a row's register and bit name it. -/
theorem vertReg_bitPos_iff {y r b : Nat} (hy : y < g.h) (hb : b < 8) :
    vertReg g y = r ∧ bitPos g y = b ↔ 8 * r + 7 - b < g.h ∧ y = g.h - 1 - (8 * r + 7 - b) := by
  simp only [vertReg, bitPos, yRev]
  omega

/-- R69, R141: a block's first byte names the block. -/
theorem Geometry.Accepted.blockBase_eq_iff {x grp p k : Nat} (hx : x < g.w) (hp : p < g.n) (hk : k < g.pbb) :
    blockBase g x = grp * g.gb + p * g.pbb + k ↔ groupOf x = grp ∧ panelOf g x = p ∧ k = 0 := by
  have h := hg.offset_inj (grp := groupOf x) (grp' := grp) (hg.panelOf_lt hx) (Nat.zero_lt_of_lt hk) hp hk
  rw [blockBase, ← Nat.add_zero (groupOf x * g.gb + panelOf g x * g.pbb), h, eq_comm (a := 0)]

/-- R94, R95: a data byte's offset names its column and its register. -/
theorem Geometry.Accepted.dataAddr_eq_iff {x y grp p k : Nat} (hx : x < g.w) (hy : y < g.h) (hp : p < g.n)
    (hk : k < g.pbb) :
    dataAddr g x y = grp * g.gb + p * g.pbb + k ↔
      groupOf x = grp ∧ panelOf g x = p ∧ 1 + (colInGroup g x * g.r + vertReg g y) = k := by
  have hin := hg.data_lt (hg.colInGroup_lt hx) (hg.vertReg_lt hy)
  rw [← hg.offset_inj (hg.panelOf_lt hx) hin hp hk]
  simp only [dataAddr, blockBase, Nat.add_assoc]

/-- R143: no data byte of any coordinate is the header of any. -/
theorem Geometry.Accepted.dataAddr_ne_blockBase {x y x' : Nat} (hx : x < g.w) (hy : y < g.h) (hx' : x' < g.w) :
    dataAddr g x y ≠ blockBase g x' := by
  have h := hg.dataAddr_eq_iff (grp := groupOf x') (k := 0) hx hy (hg.panelOf_lt hx') hg.pbb_pos
  intro he
  obtain ⟨_, _, hzero⟩ := h.1 he
  omega

theorem Geometry.Accepted.dataAddr_lt {x y : Nat} (hx : x < g.w) (hy : y < g.h) : dataAddr g x y < g.fb := by
  have hin := hg.data_lt (hg.colInGroup_lt hx) (hg.vertReg_lt hy)
  have h := hg.offset_lt (groupOf_lt x) (hg.panelOf_lt hx) hin
  rwa [← (hg.dataAddr_eq_iff hx hy (hg.panelOf_lt hx) hin).2 ⟨rfl, rfl, rfl⟩] at h

theorem Geometry.Accepted.blockBase_lt {x : Nat} (hx : x < g.w) : blockBase g x < g.fb :=
  hg.offset_lt (groupOf_lt x) (hg.panelOf_lt hx) hg.pbb_pos

/-- R146: the sample of a coordinate lies inside the snapshot. -/
theorem Geometry.Accepted.sampleIndex_lt {x y : Nat} (hx : x < g.w) (hy : y < g.h) :
    sampleIndex g x y >>> 3 < g.bb := by
  have hbb := hg.bb_eq
  have hrow : (y + 1) * g.w ≤ g.w * g.h := by
    rw [Nat.mul_comm g.w]
    exact Nat.mul_le_mul_right _ hy
  rw [Nat.add_mul] at hrow
  rw [Nat.shiftRight_eq_div_pow, sampleIndex, xSample]
  omega

end Accepted

/-! ### The closed form, bit by bit -/

/-- A lit display coordinate (R142). -/
abbrev Lit (g : Geometry) (ss : Memory) (x y : Nat) : Prop :=
  x < g.w ∧ y < g.h ∧ pixelAt ss (sampleIndex g x y) = true

/-- A lit coordinate sets bit `b` of the byte at `o`: its data bit, or a bit of its block's header (R143, R144). -/
abbrev SetsBit (g : Geometry) (o b x y : Nat) : Prop :=
  (dataAddr g x y = o ∧ bitPos g y = b) ∨ (blockBase g x = o ∧ (BitVec.ofNat 8 (groupOf x)).getLsbD b = true)

theorem getLsbD_byteOfBits (bit : Nat → Bool) {b : Nat} (hb : b < 8) : (byteOfBits bit).getLsbD b = bit b := by
  have key : ∀ n, ((List.range n).foldl (fun acc k => if bit k then acc ||| (1#8 <<< k) else acc) 0#8).getLsbD b =
      (decide (b < n) && bit b) := by
    intro n
    induction n with
    | zero => simp
    | succ n ih =>
      rw [List.range_succ, List.foldl_append, List.foldl_cons, List.foldl_nil]
      by_cases hn : bit n
      · rw [if_pos hn, getLsbD_or_bit _ hb, ih]
        by_cases hbn : b = n <;> grind
      · rw [if_neg hn, ih]
        by_cases hbn : b = n <;> grind
  have h8 := key 8
  rwa [decide_eq_true hb, Bool.true_and] at h8

/-- R147: a block is lit where one of its coordinates is. -/
theorem litBlock_iff {g : Geometry} (hg : g.Accepted) {ss : Memory} {grp p : Nat} (hgrp : grp < 4) (hp : p < g.n) :
    litBlock g ss grp p = true ↔ ∃ x y, Lit g ss x y ∧ groupOf x = grp ∧ panelOf g x = p := by
  have hcol : ∀ c, p * g.pc + 4 * c + grp = displayColumn g grp p (c ^^^ 1) := fun c => by
    rw [displayColumn, Nat.xor_assoc, Nat.xor_self, Nat.xor_zero]
  simp only [litBlock, List.any_eq_true, List.mem_range, hcol]
  constructor
  · rintro ⟨c, hc, y, hy, hlit⟩
    have hc' := hg.xor_one_lt hc
    obtain ⟨h1, h2, _⟩ := (hg.eq_displayColumn_iff hgrp hc').1 rfl
    exact ⟨_, y, ⟨hg.displayColumn_lt hgrp hp hc', hy, hlit⟩, h1, h2⟩
  · rintro ⟨x, y, ⟨hx, hy, hlit⟩, h1, h2⟩
    have hc := hg.colInGroup_lt hx
    refine ⟨colInGroup g x ^^^ 1, hg.xor_one_lt hc, y, hy, ?_⟩
    rw [Nat.xor_assoc, Nat.xor_self, Nat.xor_zero, ← (hg.eq_displayColumn_iff hgrp hc).2 ⟨h1, h2, rfl⟩]
    exact hlit

/-- R93, R148: the bits of a header. -/
theorem getLsbD_header_iff {g : Geometry} (hg : g.Accepted) {ss : Memory} {grp p b : Nat} (hgrp : grp < 4)
    (hp : p < g.n) :
    (blockByte g ss grp p 0).getLsbD b = true ↔
      ∃ x y, Lit g ss x y ∧ SetsBit g (grp * g.gb + p * g.pbb + 0) b x y := by
  have hbit : (blockByte g ss grp p 0).getLsbD b = true ↔
      litBlock g ss grp p = true ∧ (BitVec.ofNat 8 grp).getLsbD b = true := by
    by_cases hlit : litBlock g ss grp p <;> simp [blockByte, hlit]
  rw [hbit, litBlock_iff hg hgrp hp]
  constructor
  · rintro ⟨⟨x, y, hlit, rfl, rfl⟩, hb⟩
    exact ⟨x, y, hlit, .inr ⟨(hg.blockBase_eq_iff hlit.1 hp hg.pbb_pos).2 ⟨rfl, rfl, rfl⟩, hb⟩⟩
  · rintro ⟨x, y, hlit, ⟨haddr, _⟩ | ⟨haddr, hb⟩⟩
    · obtain ⟨_, _, hzero⟩ := (hg.dataAddr_eq_iff hlit.1 hlit.2.1 hp hg.pbb_pos).1 haddr
      omega
    · obtain ⟨rfl, h2, _⟩ := (hg.blockBase_eq_iff hlit.1 hp hg.pbb_pos).1 haddr
      exact ⟨⟨x, y, hlit, rfl, h2⟩, hb⟩

/-- R95, R147: the closed form of data byte (c, r) of a block. -/
theorem blockByte_data (g : Geometry) (ss : Memory) (grp p : Nat) {c r : Nat} (hr : r < g.r) :
    blockByte g ss grp p (1 + (c * g.r + r)) = byteOfBits (dataBit g ss (displayColumn g grp p c) r) := by
  obtain ⟨hcol, hreg⟩ := mul_add_parts c hr
  rw [blockByte, if_neg (by omega), Nat.add_sub_cancel_left, hcol, hreg]

/-- R94: the bits of a data byte. -/
theorem getLsbD_data_iff {g : Geometry} (hg : g.Accepted) {ss : Memory} {grp p c r b : Nat} (hgrp : grp < 4)
    (hp : p < g.n) (hc : c < g.cpg) (hr : r < g.r) (hb : b < 8) :
    (blockByte g ss grp p (1 + (c * g.r + r))).getLsbD b = true ↔
      ∃ x y, Lit g ss x y ∧ SetsBit g (grp * g.gb + p * g.pbb + (1 + (c * g.r + r))) b x y := by
  have hk := hg.data_lt hc hr
  rw [blockByte_data g ss grp p hr, getLsbD_byteOfBits _ hb, dataBit, Bool.and_eq_true, decide_eq_true_eq]
  constructor
  · rintro ⟨hrow, hlit⟩
    have hx := hg.displayColumn_lt hgrp hp hc
    have hy : g.h - 1 - (8 * r + 7 - b) < g.h := by omega
    obtain ⟨h1, h2, h3⟩ := (hg.eq_displayColumn_iff hgrp hc).1 rfl
    obtain ⟨h4, h5⟩ := (vertReg_bitPos_iff hy hb).2 ⟨hrow, rfl⟩
    refine ⟨_, _, ⟨hx, hy, hlit⟩, .inl ⟨(hg.dataAddr_eq_iff hx hy hp hk).2 ⟨h1, h2, ?_⟩, h5⟩⟩
    rw [h3, h4]
  · rintro ⟨x, y, ⟨hx, hy, hlit⟩, ⟨haddr, hbit⟩ | ⟨haddr, _⟩⟩
    · obtain ⟨h1, h2, h3⟩ := (hg.dataAddr_eq_iff hx hy hp hk).1 haddr
      obtain ⟨h4, h5⟩ : colInGroup g x = c ∧ vertReg g y = r := by
        obtain ⟨h4, h5⟩ := mul_add_parts (colInGroup g x) (hg.vertReg_lt hy)
        obtain ⟨h4', h5'⟩ := mul_add_parts c hr
        rw [Nat.add_left_cancel h3] at h4 h5
        exact ⟨h4.symm.trans h4', h5.symm.trans h5'⟩
      obtain ⟨hrow, rfl⟩ := (vertReg_bitPos_iff hy hb).1 ⟨h5, hbit⟩
      obtain rfl := (hg.eq_displayColumn_iff hgrp hc).2 ⟨h1, h2, h4⟩
      exact ⟨hrow, hlit⟩
    · obtain ⟨_, _, hzero⟩ := (hg.blockBase_eq_iff hx hp hk).1 haddr
      omega

/-- R147: a bit of the closed form is set where a lit coordinate sets it. -/
theorem getLsbD_wireByte_iff {g : Geometry} (hg : g.Accepted) {ss : Memory} {o b : Nat} (ho : o < g.fb) (hb : b < 8) :
    (wireByte g ss o).getLsbD b = true ↔ ∃ x y, Lit g ss x y ∧ SetsBit g o b x y := by
  obtain ⟨grp, hgrp, p, hp, k, hk, rfl⟩ := hg.exists_offset ho
  rw [hg.wireByte_offset hp hk]
  cases k with
  | zero => exact getLsbD_header_iff hg hgrp hp
  | succ k =>
    have hr : k % g.r < g.r := Nat.mod_lt _ hg.r_pos
    have hc : k / g.r < g.cpg := by
      rw [Nat.div_lt_iff_lt_mul hg.r_pos]
      have := hg.pbb_eq
      omega
    have hparts : k + 1 = 1 + (k / g.r * g.r + k % g.r) := by rw [Nat.div_add_mod', Nat.add_comm]
    rw [hparts]
    exact getLsbD_data_iff hg hgrp hp hc hr hb

/-! ### BUILD -/

/-- A lit coordinate among `visited` sets bit `b` of the byte at `o`. -/
abbrev BitDrawn (g : Geometry) (ss : Memory) (visited : Nat → Nat → Prop) (o b : Nat) : Prop :=
  ∃ x y, visited x y ∧ Lit g ss x y ∧ SetsBit g o b x y

/-- What WF holds once the lit coordinates among `visited` have been drawn over zeros: exactly the bits they set. -/
structure Drawn (g : Geometry) (ss : Memory) (visited : Nat → Nat → Prop) (wf : Memory) : Prop where
  full : wf.full = true
  size : wf.size = g.fb
  bits : ∀ o v, wf.read .wf o = .ok v → ∀ b < 8, (v.getLsbD b = true ↔ BitDrawn g ss visited o b)

theorem Drawn.of_iff {g : Geometry} {ss wf : Memory} {visited visited' : Nat → Nat → Prop}
    (h : Drawn g ss visited wf) (hiff : ∀ x y, Lit g ss x y → (visited x y ↔ visited' x y)) :
    Drawn g ss visited' wf := by
  refine ⟨h.full, h.size, fun o v hv b hb => (h.bits o v hv b hb).trans ?_⟩
  exact exists_congr fun x => exists_congr fun y =>
    ⟨fun ⟨hvis, hlit, hset⟩ => ⟨(hiff x y hlit).1 hvis, hlit, hset⟩,
      fun ⟨hvis, hlit, hset⟩ => ⟨(hiff x y hlit).2 hvis, hlit, hset⟩⟩

theorem bitDrawn_or_iff {g : Geometry} {ss : Memory} {visited : Nat → Nat → Prop} {o b x y : Nat}
    (hlit : Lit g ss x y) :
    BitDrawn g ss (fun x' y' => visited x' y' ∨ (x' = x ∧ y' = y)) o b ↔
      BitDrawn g ss visited o b ∨ SetsBit g o b x y := by
  constructor
  · rintro ⟨x', y', hvis | ⟨rfl, rfl⟩, hlit', hset⟩
    · exact .inl ⟨x', y', hvis, hlit', hset⟩
    · exact .inr hset
  · rintro (⟨x', y', hvis, hrest⟩ | hset)
    · exact ⟨x', y', .inl hvis, hrest⟩
    · exact ⟨x, y, .inr ⟨rfl, rfl⟩, hlit, hset⟩

theorem read_zeros {name : MemoryName} {n o : Nat} {v : Byte} (h : (Memory.zeros n).read name o = .ok v) : v = 0#8 := by
  obtain ⟨ho, hv⟩ := Memory.read_ok_iff.1 h
  rw [Memory.zeros, lookupCell_numberFrom, if_pos (Nat.zero_le o)] at hv
  exact (List.mem_replicate.1 (List.mem_of_getElem? hv)).2

/-- R145: a zeroed Wire Frame has no bit set. -/
theorem drawn_zeros (g : Geometry) (ss : Memory) : Drawn g ss (fun _ _ => False) (Memory.zeros g.fb) where
  full := Memory.zeros_full g.fb
  size := rfl
  bits := fun o v hv b _ => by simp [read_zeros hv]

theorem Memory.write_of_lt (name : MemoryName) {m : Memory} {a : Nat} (ha : a < m.size) (v : Byte) :
    ∃ m', m.write name a v = .ok m' :=
  ⟨_, if_pos ha⟩

/-- R142 to R144: drawing one coordinate writes its block's header and adds its data bit. -/
theorem lightPixel_reads {g : Geometry} (hg : g.Accepted) {wf : Memory} {x y : Nat} (hx : x < g.w) (hy : y < g.h)
    (hfull : wf.full = true) (hsize : wf.size = g.fb) :
    ∃ wf' old, lightPixel g x y wf = .ok wf' ∧ wf'.full = true ∧ wf'.size = g.fb ∧
      wf.read .wf (dataAddr g x y) = .ok old ∧
      ∀ o, wf'.read .wf o =
        if o = dataAddr g x y then .ok (old ||| dataMask g y)
        else if o = blockBase g x then .ok (BitVec.ofNat 8 (groupOf x))
        else wf.read .wf o := by
  have hdata : dataAddr g x y < wf.size := hsize ▸ hg.dataAddr_lt hx hy
  obtain ⟨old, hold⟩ := Memory.read_of_full (name := .wf) hfull hdata
  obtain ⟨wf1, h1⟩ := Memory.write_of_lt .wf (hsize ▸ hg.blockBase_lt hx) (BitVec.ofNat 8 (groupOf x))
  obtain ⟨wf2, h2⟩ := Memory.write_of_lt .wf (Memory.write_size h1 ▸ hdata) (old ||| dataMask g y)
  have hold1 : wf1.read .wf (dataAddr g x y) = .ok old := by
    rw [Memory.read_write h1, if_neg (hg.dataAddr_ne_blockBase hx hy hx), hold]
  refine ⟨wf2, old, by simp only [lightPixel, h1, hold1, h2], Memory.write_full h2 (Memory.write_full h1 hfull),
    (Memory.write_size h2).trans ((Memory.write_size h1).trans hsize), hold, fun o => ?_⟩
  rw [Memory.read_write h2, Memory.read_write h1]

/-- R63, R91: the pixel of a full snapshot. -/
theorem readPixel_of_full {ss : Memory} (hfull : ss.full = true) {idx : Nat} (hidx : idx >>> 3 < ss.size) :
    readPixel .ss ss idx = .ok (pixelAt ss idx) := by
  obtain ⟨b, hb⟩ := Memory.read_of_full (name := .ss) hfull hidx
  simp only [readPixel, hb, pixelAt_of_read hb]

section Build

variable {g : Geometry} {ss : Memory} (hg : g.Accepted) (hfull : ss.full = true) (hsize : ss.size = g.bb)
include hg

/-- R143, R144: of the bits of its own data byte, a coordinate sets its own one. -/
theorem setsBit_dataAddr_iff {x y b : Nat} (hx : x < g.w) (hy : y < g.h) :
    SetsBit g (dataAddr g x y) b x y ↔ b = bitPos g y := by
  constructor
  · rintro (⟨_, hbit⟩ | ⟨haddr, _⟩)
    · exact hbit.symm
    · exact absurd haddr.symm (hg.dataAddr_ne_blockBase hx hy hx)
  · exact fun hbit => .inl ⟨rfl, hbit.symm⟩

/-- R143: whatever sets a bit of a header is of the header's group, so that it may be written again. -/
theorem header_of_setsBit {x x' y' b : Nat} (hx : x < g.w) (hx' : x' < g.w) (hy' : y' < g.h)
    (h : SetsBit g (blockBase g x) b x' y') : (BitVec.ofNat 8 (groupOf x)).getLsbD b = true := by
  rcases h with ⟨haddr, _⟩ | ⟨haddr, hbit⟩
  · exact absurd haddr (hg.dataAddr_ne_blockBase hx' hy' hx)
  · obtain ⟨hgroup, _⟩ := (hg.blockBase_eq_iff (k := 0) hx' (hg.panelOf_lt hx) hg.pbb_pos).1 haddr
    rwa [hgroup] at hbit

/-- R142 to R144: drawing a lit coordinate adds the bits it sets. -/
theorem lightPixel_drawn {visited : Nat → Nat → Prop} {wf : Memory} {x y : Nat} (hlit : Lit g ss x y)
    (h : Drawn g ss visited wf) :
    ∃ wf', lightPixel g x y wf = .ok wf' ∧ Drawn g ss (fun x' y' => visited x' y' ∨ (x' = x ∧ y' = y)) wf' := by
  have ⟨hx, hy, _⟩ := hlit
  obtain ⟨wf', old, hlight, hfull', hsize', hold, hread⟩ := lightPixel_reads hg hx hy h.full h.size
  refine ⟨wf', hlight, hfull', hsize', fun o v hv b hb => ?_⟩
  rw [bitDrawn_or_iff hlit]
  rw [hread] at hv
  by_cases hdata : o = dataAddr g x y
  · subst hdata
    rw [if_pos rfl] at hv
    obtain rfl := Except.ok.inj hv
    rw [dataMask, getLsbD_or_bit _ hb, Bool.or_eq_true, h.bits _ _ hold b hb, setsBit_dataAddr_iff hg hx hy,
      decide_eq_true_eq]
  · rw [if_neg hdata] at hv
    by_cases hhead : o = blockBase g x
    · subst hhead
      rw [if_pos rfl] at hv
      obtain rfl := Except.ok.inj hv
      constructor
      · exact fun hbit => .inr (.inr ⟨rfl, hbit⟩)
      · rintro (⟨x', y', _, ⟨hx', hy', _⟩, hset⟩ | hset)
        · exact header_of_setsBit hg hx hx' hy' hset
        · exact header_of_setsBit hg hx hx hy hset
    · rw [if_neg hhead] at hv
      rw [h.bits o v hv b hb]
      exact (or_iff_left fun hset => hset.elim (fun hd => hdata hd.1.symm) fun hh => hhead hh.1.symm).symm

include hfull hsize

/-- R142: PIXEL never faults, and adds the bits its coordinate sets where it is lit. -/
theorem pixel_drawn {visited : Nat → Nat → Prop} {wf : Memory} {x y : Nat} (hx : x < g.w) (hy : y < g.h)
    (h : Drawn g ss visited wf) :
    ∃ wf', pixel g ss x y wf = .ok wf' ∧ Drawn g ss (fun x' y' => visited x' y' ∨ (x' = x ∧ y' = y)) wf' := by
  have hsample := readPixel_of_full hfull (hsize ▸ hg.sampleIndex_lt hx hy)
  cases hpixel : pixelAt ss (sampleIndex g x y) with
  | true =>
    obtain ⟨wf', hlight, hdrawn⟩ := lightPixel_drawn hg ⟨hx, hy, hpixel⟩ h
    exact ⟨wf', by simp only [pixel, hsample, hpixel, if_pos, hlight], hdrawn⟩
  | false =>
    refine ⟨wf, by simp [pixel, hsample, hpixel], h.of_iff fun x' y' hlit => ?_⟩
    refine (or_iff_left ?_).symm
    rintro ⟨rfl, rfl⟩
    exact Bool.noConfusion (hpixel.symm.trans hlit.2.2)

/-- R145: one row of BUILD. -/
theorem buildRow_drawn {wf : Memory} {y : Nat} (hy : y < g.h) (h : Drawn g ss (fun _ y' => y' < y) wf) :
    ∃ wf', forRange g.w (fun x m => pixel g ss x y m) wf = .ok wf' ∧ Drawn g ss (fun _ y' => y' < y + 1) wf' := by
  obtain ⟨wf', hrow, hdrawn⟩ := forRange_ok
    (fun x m => Drawn g ss (fun x' y' => y' < y ∨ (x' < x ∧ y' = y)) m) (h.of_iff (by simp))
    (fun x hx m hm => (pixel_drawn hg hfull hsize hx hy hm).imp fun m' hm' =>
      ⟨hm'.1, hm'.2.of_iff fun x' y' _ => by omega⟩)
  exact ⟨wf', hrow, hdrawn.of_iff fun x' y' hlit => by have := hlit.1; omega⟩

/-- R145: BUILD never faults, and draws every lit coordinate. -/
theorem build_drawn : ∃ wf, build g ss (Memory.zeros g.fb) = .ok wf ∧ Drawn g ss (fun _ y => y < g.h) wf :=
  forRange_ok (fun y m => Drawn g ss (fun _ y' => y' < y) m)
    ((drawn_zeros g ss).of_iff (by simp)) fun _ hy _ hm => buildRow_drawn hg hfull hsize hy hm

/-- R147: BUILD over a zeroed Wire Frame ends, and leaves the closed form at every offset. -/
theorem build_closedForm : ∃ wf, build g ss (Memory.zeros g.fb) = .ok wf ∧ wf.size = g.fb ∧
    ∀ o < g.fb, wf.read .wf o = .ok (wireByte g ss o) := by
  obtain ⟨wf, hbuild, hdrawn⟩ := build_drawn hg hfull hsize
  refine ⟨wf, hbuild, hdrawn.size, fun o ho => ?_⟩
  obtain ⟨v, hv⟩ := Memory.read_of_full (name := .wf) hdrawn.full (hdrawn.size ▸ ho)
  have hbyte : v = wireByte g ss o := by
    refine BitVec.eq_of_getLsbD_eq fun b hb => Bool.eq_iff_iff.2 ?_
    rw [hdrawn.bits o v hv b hb, getLsbD_wireByte_iff hg ho hb]
    exact exists_congr fun x => exists_congr fun y => and_iff_right_of_imp fun hset => hset.1.2.1
  rw [hv, hbyte]

/-- R147: what BUILD leaves of a block. -/
theorem read_of_build {wf : Memory} (hbuild : build g ss (Memory.zeros g.fb) = .ok wf) {grp p k : Nat}
    (hgrp : grp < 4) (hp : p < g.n) (hk : k < g.pbb) :
    wf.read .wf (grp * g.gb + p * g.pbb + k) = .ok (blockByte g ss grp p k) := by
  obtain ⟨wf', hbuild', _, hread⟩ := build_closedForm hg hfull hsize
  obtain rfl : wf = wf' := Except.ok.inj (hbuild.symm.trans hbuild')
  rw [hread _ (hg.offset_lt hgrp hp hk), hg.wireByte_offset hp hk]

end Build

/-- Settles O36: the closed form of a data byte, bit by bit. -/
theorem builtDataBits : Obligations.BuiltDataBits := by
  intro g ss wf hg hfull hsize hbuild grp hgrp p hp c hc r hr
  refine ⟨byteOfBits (dataBit g ss (displayColumn g grp p c) r), ?_, fun b hb => ?_⟩
  · rw [Nat.add_assoc _ (c * g.r), Nat.add_assoc _ 1, read_of_build hg hfull hsize hbuild hgrp hp (hg.data_lt hc hr),
      blockByte_data g ss grp p hr]
  · rw [getLsbD_byteOfBits _ hb, dataBit, Bool.and_eq_true, decide_eq_true_eq, displayColumn,
      Nat.add_sub_assoc (Nat.le_of_lt_succ hb)]

/-- Settles O37: the closed form of a header. -/
theorem builtHeaders : Obligations.BuiltHeaders := by
  intro g ss wf hg hfull hsize hbuild grp hgrp p hp
  have hread := read_of_build hg hfull hsize hbuild hgrp hp hg.pbb_pos
  rw [Nat.add_zero, blockByte, if_pos rfl] at hread
  constructor
  · rintro ⟨x, y, hx, hy, h1, h2, hlit⟩
    rw [hread, if_pos ((litBlock_iff hg hgrp hp).2 ⟨x, y, ⟨hx, hy, hlit⟩, h1, h2⟩)]
  · intro hdark
    rw [hread, if_neg]
    intro hblock
    obtain ⟨x, y, ⟨hx, hy, hlit⟩, h1, h2⟩ := (litBlock_iff hg hgrp hp).1 hblock
    exact Bool.noConfusion ((hdark x y hx hy h1 h2).symm.trans hlit)

end Sys2Proof.Machine
end

section
/-! PROOFS. The pseudo-operations GROUP and FRAME (R108): one SEND.ISSUE and one COMPOSE from the invariant, the five
operations of a group (O55), and the whole frame (O56). -/

namespace Sys2Proof.Machine

/-! ### Sequences -/

theorem runOps_append {first rest : List Instr} {s t : State} (h : runOps first s = some t) :
    runOps (first ++ rest) s = runOps rest t := by
  induction first generalizing s with
  | nil => rw [List.nil_append, Option.some.inj h]
  | cons i first ih =>
    simp only [List.cons_append, runOps] at h ⊢
    split at h
    · exact ih h
    · cases h
    · cases h

theorem runOps_cons {i : Instr} {rest : List Instr} {s t : State} (h : exec i s = .next t) :
    runOps (i :: rest) s = runOps rest t := by
  simp only [runOps, h]

theorem runOps_inv {lines : List Instr} {s t : State} (h : runOps lines s = some t) (hs : s.Inv) : t.Inv := by
  induction lines generalizing s with
  | nil => exact Option.some.inj h ▸ hs
  | cons i lines ih =>
    simp only [runOps] at h
    split at h
    · exact ih h (exec_inv ‹_› hs)
    · cases h
    · cases h

/-! ### Geometry and memories of a state with the invariant -/

theorem InstanceFits.accepted {s : State} {g : Geometry} {bm ss wf : Memory} (hf : InstanceFits s g bm ss wf) :
    g.Accepted :=
  derive_ok hf.derived

theorem State.Inv.fits_of_wf {s : State} {g : Geometry} {wf : Memory} (hs : s.Inv) (hatt : s.att = true)
    (hgeom : s.geom = some g) (hwf : s.wf = some wf) : ∃ bm ss, InstanceFits s g bm ss wf := by
  obtain ⟨g0, bm, ss, wf0, hg0, _, _, hw0, hf⟩ := hs.attached hatt
  obtain rfl : g0 = g := Option.some.inj (hg0.symm.trans hgeom)
  obtain rfl : wf0 = wf := Option.some.inj (hw0.symm.trans hwf)
  exact ⟨bm, ss, hf⟩

theorem State.Inv.fits_of_bm {s : State} {g : Geometry} {bm : Memory} (hs : s.Inv) (hatt : s.att = true)
    (hgeom : s.geom = some g) (hbm : s.bm = some bm) :
    ∃ ss wf, s.ss = some ss ∧ s.wf = some wf ∧ InstanceFits s g bm ss wf := by
  obtain ⟨g0, bm0, ss, wf, hg0, hb0, hss, hwf, hf⟩ := hs.attached hatt
  obtain rfl : g0 = g := Option.some.inj (hg0.symm.trans hgeom)
  obtain rfl : bm0 = bm := Option.some.inj (hb0.symm.trans hbm)
  exact ⟨ss, wf, hss, hwf, hf⟩

/-! ### SEND.ISSUE -/

/-- The bytes of a group's slice, in address order (R96). -/
abbrev IsSlice (g : Geometry) (wf : Memory) (cg : BitVec 2) (burst : List Byte) : Prop :=
  burst.length = g.gb ∧ ∀ k (h : k < burst.length), wf.read .wf (cg.toNat * g.gb + k) = .ok burst[k]

theorem IsSlice.getElem? {g : Geometry} {wf : Memory} {cg : BitVec 2} {burst : List Byte} {v : Byte} {start o : Nat}
    (h : IsSlice g wf cg burst) (hstart : cg.toNat * g.gb = start) (hlow : start ≤ o) (hhigh : o < start + g.gb)
    (hread : wf.read .wf o = .ok v) : burst[o - start]? = some v := by
  obtain ⟨hlen, hslice⟩ := h
  have hk : o - start < burst.length := by omega
  have hbyte := hslice _ hk
  rw [hstart, Nat.add_sub_cancel' hlow] at hbyte
  rw [List.getElem?_eq_getElem hk, Except.ok.inj (hbyte.symm.trans hread)]

/-- R96, R176: during a frame every group's slice holds a value. -/
theorem exec_sendIssue_of_inv {s : State} {g : Geometry} {wf : Memory} (hs : s.Inv) (hg : GuardSendIssue s)
    (hgeom : s.geom = some g) (hwf : s.wf = some wf) :
    ∃ burst, IsSlice g wf s.cg burst ∧ exec .sendIssue s = .next (sendIssueFields s burst) := by
  have ⟨hatt, _, hst, _⟩ := hg
  obtain ⟨_, _, hf⟩ := hs.fits_of_wf hatt hgeom hwf
  have hin : s.cg.toNat * g.gb + g.gb ≤ wf.size := by
    rw [hf.wfSize, hf.accepted.fb_eq, ← Nat.succ_mul]
    exact Nat.mul_le_mul_right _ s.cg.isLt
  obtain ⟨burst, hburst⟩ := Memory.readMany_of_full (name := .wf) (hf.wfFull (.inl hst)) hin
  exact ⟨burst, Memory.readMany_ok_iff.1 hburst, execSendIssue_of hs.coherent hg hgeom hwf hburst⟩

/-! ### GROUP -/

theorem guardSendDone_of_busOk {s : State} (hg : GuardBusOk s) (hstp : s.stp = false) :
    GuardSendDone (completeTransfer false s) := by
  obtain ⟨hatt, hst, _⟩ := hg
  exact ⟨hatt, hstp, hst, rfl, rfl⟩

theorem guardExpire_of_sendDone {s : State} (hg : GuardSendDone s) : GuardExpire (sendDoneState s) := by
  obtain ⟨hatt, hstp, _⟩ := hg
  rw [sendDoneState_eq]
  exact ⟨hatt, hstp, rfl, rfl⟩

theorem guardAdvance_of_expire {s : State} (hg : GuardExpire s) : GuardAdvance (expireState s) := by
  obtain ⟨hatt, hstp, _⟩ := hg
  exact ⟨hatt, hstp, rfl, rfl⟩

/-- R177 to R179: after a completed transfer, the rest of the group takes its steps. -/
theorem runOps_afterTransfer {s : State} (hc : s.Coherent) (hg : GuardSendDone s) :
    runOps [.sendDone, .expire, .advance] s = some (advanceState (expireState (sendDoneState s))) := by
  have hc' := sendDoneState_coherent hc hg
  have hg' := guardExpire_of_sendDone hg
  have hdone : exec .sendDone s = .next (sendDoneState s) := guarded_of hc hg
  have hexpire : exec .expire (sendDoneState s) = .next (expireState (sendDoneState s)) :=
    guarded_of hc' hg'
  have hadvance : exec .advance (expireState (sendDoneState s)) =
      .next (advanceState (expireState (sendDoneState s))) :=
    guarded_of (expireState_coherent hc' hg') (guardAdvance_of_expire hg')
  rw [runOps_cons hdone, runOps_cons hexpire, runOps_cons hadvance, runOps]

/-- R108, R182: after a SEND.ISSUE that took its step, the rest of the group takes its steps. -/
theorem runOps_group {s : State} {burst : List Byte} (hc : s.Coherent) (hg : GuardSendIssue s)
    (hissue : exec .sendIssue s = .next (sendIssueFields s burst)) :
    runOps groupLines s =
      some (advanceState (expireState (sendDoneState (completeTransfer false (sendIssueFields s burst))))) := by
  have hissued := sendIssueFields_coherent hc hg burst
  obtain ⟨hatt, hstp, hst, _, hdon⟩ := hg
  have hbus : GuardBusOk (sendIssueFields s burst) := ⟨hatt, hst, rfl, hdon⟩
  have hok : exec .busOk (sendIssueFields s burst) = .next (completeTransfer false (sendIssueFields s burst)) :=
    guarded_of hissued hbus
  rw [groupLines, runOps_cons hissue, runOps_cons hok]
  exact runOps_afterTransfer (completeTransfer_coherent hissued hbus false) (guardSendDone_of_busOk hbus hstp)

/-- R22, R171: what the five operations leave, as one update. -/
theorem group_eq {s : State} (hc : s.Coherent) (hg : GuardSendIssue s) (burst : List Byte) :
    advanceState (expireState (sendDoneState (completeTransfer false (sendIssueFields s burst)))) = { s with
      cg := if s.cg = 3 then 0 else s.cg + 1, st := if s.cg = 3 then .compose else .send, xst := false
      cs := true, trace := s.trace ++ groupEvents s.cg burst } := by
  obtain ⟨hatt, hstp, hst, hbsy, hdon⟩ := hg
  obtain ⟨_, htar, hwak, _⟩ := (coherent_iff_send hatt hst).1 hc
  have hwrap : (if s.cg = 3 then 0 else s.cg + 1) = s.cg + 1 := by
    split_ifs with hlast
    · rw [hlast]
      rfl
    · rfl
  rw [hwrap, advanceState_eq, expireState_eq, sendDoneState_eq, sendIssueFields_eq]
  simp [completeTransfer, State.emit, groupEvents, hbsy, hdon, htar, hwak]

/-- R108, R182: from the invariant, a GROUP sends the current slice and moves on. -/
theorem group_of_inv {s : State} {g : Geometry} {wf : Memory} (hs : s.Inv) (hg : GuardSendIssue s)
    (hgeom : s.geom = some g) (hwf : s.wf = some wf) :
    ∃ burst, IsSlice g wf s.cg burst ∧ runOps groupLines s = some { s with
      cg := if s.cg = 3 then 0 else s.cg + 1, st := if s.cg = 3 then .compose else .send, xst := false
      cs := true, trace := s.trace ++ groupEvents s.cg burst } := by
  obtain ⟨burst, hslice, hissue⟩ := exec_sendIssue_of_inv hs hg hgeom hwf
  exact ⟨burst, hslice, group_eq hs.coherent hg burst ▸ runOps_group hs.coherent hg hissue⟩

/-- Settles O55: the slice of SEND.ISSUE, and the five next states as one update. -/
theorem groupSendsOneSlice : Obligations.GroupSendsOneSlice := by
  intro s g wf hs hg hgeom hwf
  obtain ⟨burst, ⟨hlen, hread⟩, hrun⟩ := group_of_inv hs hg hgeom hwf
  exact ⟨_, burst, hrun, hlen, hread, rfl⟩

/-! ### COMPOSE -/

/-- R66, R147, R175: from the invariant, COMPOSE copies the bitmap and builds the closed form of the copy. -/
theorem exec_compose_of_inv {s : State} {g : Geometry} {bm : Memory} (hs : s.Inv) (hg : GuardCompose s)
    (hgeom : s.geom = some g) (hbm : s.bm = some bm) :
    ∃ bytes ss wf, exec .compose s = .next (composeFields s bytes ss wf) ∧
      bm.readMany .bm 0 g.bb = .ok bytes ∧ ss = { size := g.bb, cells := numberFrom 0 bytes } ∧
      wf.size = g.fb ∧ ∀ o < g.fb, wf.read .wf o = .ok (wireByte g ss o) := by
  obtain ⟨ss0, wf0, hss, hwf, hf⟩ := hs.fits_of_bm hg.1 hgeom hbm
  obtain ⟨bytes, hbytes⟩ := Memory.readMany_of_full (name := .bm) (a := 0) (n := g.bb) hf.bmFull
    (by rw [hf.bmSize, Nat.zero_add])
  obtain ⟨hlen, _⟩ := Memory.readMany_ok_iff.1 hbytes
  have hcopy : ss0.writeAll .ss bytes = .ok { size := g.bb, cells := numberFrom 0 bytes } := by
    rw [Memory.writeAll, if_pos (hlen.trans hf.ssSize.symm), hf.ssSize]
  have hzero : wf0.writeAll .wf (List.replicate g.fb 0#8) = .ok (Memory.zeros g.fb) := by
    rw [Memory.writeAll, if_pos (by rw [List.length_replicate, hf.wfSize]), hf.wfSize, Memory.zeros]
  obtain ⟨wf, hbuild, hsize, hread⟩ := build_closedForm hf.accepted (Memory.numbered_full g.bb bytes hlen) rfl
  have hcompose : composeState s = .ok (composeFields s bytes { size := g.bb, cells := numberFrom 0 bytes } wf) := by
    simp only [composeState, needInstance_of hgeom hbm hss hwf, composeMemories, snapshotMemories, hbytes, hcopy, hzero,
      hbuild]
  refine ⟨bytes, _, wf, ?_, hbytes, rfl, hsize, hread⟩
  calc exec .compose s
    _ = settle (composeState s) := guarded_of hs.coherent hg
    _ = .next _ := by rw [hcompose, settle]

/-- R66: the snapshot holds a byte exactly where the bitmap it was read from does. -/
theorem read_snapshot_iff {bm : Memory} {n : Nat} {bytes : List Byte} (hsize : bm.size = n)
    (h : bm.readMany .bm 0 n = .ok bytes) (a : Nat) (b : Byte) :
    Memory.read .ss { size := n, cells := numberFrom 0 bytes } a = .ok b ↔ bm.read .bm a = .ok b := by
  obtain ⟨hlen, hread⟩ := Memory.readMany_ok_iff.1 h
  simp only [Nat.zero_add] at hread
  rw [Memory.read_ok_iff, lookupCell_numberFrom, if_pos (Nat.zero_le a), Nat.sub_zero]
  constructor
  · rintro ⟨_, hb⟩
    obtain ⟨ha, rfl⟩ := List.getElem?_eq_some_iff.1 hb
    exact hread a ha
  · intro hb
    have ha : a < n := hsize ▸ (Memory.read_ok_iff.1 hb).1
    have ha' : a < bytes.length := hlen ▸ ha
    refine ⟨ha, ?_⟩
    rw [List.getElem?_eq_getElem ha', Except.ok.inj ((hread a ha').symm.trans hb)]

/-! ### FRAME -/

/-- R171, R183: the four groups of a frame, from the state COMPOSE leaves. -/
theorem runOps_groups {s : State} {g : Geometry} {wf : Memory} (hs : s.Inv) (hg : GuardSendIssue s) (hcg : s.cg = 0)
    (hgeom : s.geom = some g) (hwf : s.wf = some wf) :
    ∃ b0 b1 b2 b3, IsSlice g wf 0 b0 ∧ IsSlice g wf 1 b1 ∧ IsSlice g wf 2 b2 ∧ IsSlice g wf 3 b3 ∧
      runOps (groupLines ++ groupLines ++ groupLines ++ groupLines) s = some { s with
        cg := 0, st := .compose, xst := false, cs := true
        trace := s.trace ++ (groupEvents 0 b0 ++ groupEvents 1 b1 ++ groupEvents 2 b2 ++ groupEvents 3 b3) } := by
  have ⟨hatt, hstp, hst, hbsy, hdon⟩ := hg
  obtain ⟨b0, hb0, h0⟩ := group_of_inv hs hg hgeom hwf
  have hs1 := runOps_inv h0 hs
  simp only [hcg] at hb0 h0 hs1
  obtain ⟨b1, hb1, h1⟩ := group_of_inv hs1 ⟨hatt, hstp, rfl, hbsy, hdon⟩ hgeom hwf
  have hs2 := runOps_inv h1 hs1
  obtain ⟨b2, hb2, h2⟩ := group_of_inv hs2 ⟨hatt, hstp, rfl, hbsy, hdon⟩ hgeom hwf
  have hs3 := runOps_inv h2 hs2
  obtain ⟨b3, hb3, h3⟩ := group_of_inv hs3 ⟨hatt, hstp, rfl, hbsy, hdon⟩ hgeom hwf
  refine ⟨b0, b1, b2, b3, hb0, hb1, hb2, hb3, ?_⟩
  rw [List.append_assoc, List.append_assoc, runOps_append h0, runOps_append h1, runOps_append h2, h3]
  simp

/-- R127: the four slices joined are the Wire Frame. -/
theorem joined_getElem? {g : Geometry} {wf : Memory} {b0 b1 b2 b3 : List Byte} (hfb : g.fb = 4 * g.gb)
    (h0 : IsSlice g wf 0 b0) (h1 : IsSlice g wf 1 b1) (h2 : IsSlice g wf 2 b2) (h3 : IsSlice g wf 3 b3) {o : Nat}
    {v : Byte} (ho : o < g.fb) (hread : wf.read .wf o = .ok v) : (b0 ++ b1 ++ b2 ++ b3)[o]? = some v := by
  simp only [List.getElem?_append, List.length_append, h0.1, h1.1, h2.1]
  split_ifs with hlt2 hlt1 hlt0
  · exact h0.getElem? (Nat.zero_mul _) (Nat.zero_le o) (by omega) hread
  · exact h1.getElem? (Nat.one_mul _) (by omega) (by omega) hread
  · exact h2.getElem? (Nat.two_mul _) (by omega) (by omega) hread
  · have hstart : 3 * g.gb = g.gb + g.gb + g.gb := by omega
    exact h3.getElem? hstart (by omega) (by omega) hread

/-- Settles O56: COMPOSE leaves the closed form of its snapshot in WF, and the four groups send its four slices. -/
theorem frameSendsTheWholeWireFrame : Obligations.FrameSendsTheWholeWireFrame := by
  intro s g bm hs hg hgeom hbm
  obtain ⟨bytes, ss, wf, hcompose, hbytes, hss, hsize, hwire⟩ := exec_compose_of_inv hs hg hgeom hbm
  obtain ⟨_, _, _, _, hf⟩ := hs.fits_of_bm hg.1 hgeom hbm
  have ⟨hatt, hstp, hst⟩ := hg
  obtain ⟨hbsy, hdon, _⟩ := (coherent_iff_between hatt (.inr hst)).1 hs.coherent
  have hsend : GuardSendIssue (composeFields s bytes ss wf) := ⟨hatt, hstp, rfl, hbsy, hdon⟩
  obtain ⟨b0, b1, b2, b3, h0, h1, h2, h3, hgroups⟩ := runOps_groups (exec_inv hcompose hs) hsend rfl hgeom rfl
  refine ⟨_, bytes, ss, b0, b1, b2, b3, (runOps_cons hcompose).trans hgroups, rfl, rfl, hbm, rfl, ?_, ?_,
    h0.1, h1.1, h2.1, h3.1, fun o ho => joined_getElem? hf.accepted.fb_eq h0 h1 h2 h3 ho (hwire o ho)⟩
  · rw [hss]
    exact read_snapshot_iff hf.bmSize hbytes
  · simp

end Sys2Proof.Machine
end

section
/-! PROOFS. The geometry derivation (R121 to R130): what acceptance of the inputs implies, exactly when Derive answers
each of its codes, and the four slices of the Wire Frame (O12 to O15). -/

namespace Sys2Proof.Machine

/-! ### What acceptance implies -/

theorem Valid.accepted {w h n : Nat} (hv : Valid w h n) : (geometryOf w h n).Accepted := ⟨hv, rfl⟩

section Accepted

variable {g : Geometry} (hg : g.Accepted)
include hg

/-- R124: a panel has columns, since the display has; CPG is even, so it is not 1. -/
theorem Geometry.Accepted.two_le_cpg : 2 ≤ g.cpg := by
  obtain ⟨hw, _, _⟩ := hg.1.1
  have hpc : 0 < g.pc := Nat.pos_of_mul_pos_left (hg.w_eq ▸ hw)
  have hpc4 := hg.pc_eq
  have heven := hg.cpg_even
  omega

theorem Geometry.Accepted.eight_dvd_pc : 8 ∣ g.pc := by
  have hpc4 := hg.pc_eq
  have heven := hg.cpg_even
  omega

theorem Geometry.Accepted.eight_dvd_w : 8 ∣ g.w :=
  hg.w_eq ▸ hg.eight_dvd_pc.mul_left g.n

/-- R124: the last register of a column shows at least one row. -/
theorem Geometry.Accepted.lt_h : 8 * g.r - 8 < g.h := by
  obtain ⟨_, hh, _⟩ := hg.1.1
  have hr : g.r = (g.h + 7) / 8 := congrArg Geometry.r hg.2
  omega

theorem Geometry.Accepted.three_le_pbb : 3 ≤ g.pbb := by
  have hdata : 2 * 1 ≤ g.cpg * g.r := Nat.mul_le_mul hg.two_le_cpg hg.r_pos
  rw [hg.pbb_eq]
  omega

theorem Geometry.Accepted.three_le_gb : 3 ≤ g.gb := by
  obtain ⟨_, _, hn⟩ := hg.1.1
  rw [hg.gb_eq]
  exact hg.three_le_pbb.trans (Nat.le_mul_of_pos_left _ hn)

end Accepted

/-- Settles O12, one lemma on accepted geometries for each of R124's consequences. -/
theorem consequencesOfAcceptance : Obligations.ConsequencesOfAcceptance := by
  intro w h n hv
  have hg := hv.accepted
  have hpc : 8 ≤ (geometryOf w h n).pc := by
    have hcpg := hg.two_le_cpg
    rw [hg.pc_eq]
    omega
  have hfb : 12 ≤ (geometryOf w h n).fb := by
    have hgb := hg.three_le_gb
    rw [hg.fb_eq]
    omega
  have hrow (y : Nat) : y * w = 8 * (y * (w / 8)) := by
    have hw : 8 * (w / 8) = w := Nat.mul_div_cancel' hg.eight_dvd_w
    rw [Nat.mul_left_comm, hw]
  exact ⟨Nat.mod_eq_zero_of_dvd hg.eight_dvd_pc, hpc, hg.cpg_even, hg.two_le_cpg, hg.w_eq,
    Nat.mod_eq_zero_of_dvd hg.eight_dvd_w, hg.bb_eq, hrow, hg.r_pos, hg.lt_h, hg.h_le, hg.three_le_pbb,
    hg.three_le_gb, hfb⟩

/-- Settles O14: R129's worked example, evaluated. -/
theorem defaultGeometryValues : Obligations.DefaultGeometryValues := by
  unfold Obligations.DefaultGeometryValues
  decide

/-! ### The answers of Derive -/

theorem exceeds_iff {size : Nat} {cap : Option Nat} : exceeds size cap = true ↔ ∃ c, cap = some c ∧ c < size := by
  cases cap <;> simp [exceeds]

theorem not_exceeds_iff {size : Nat} {cap : Option Nat} : exceeds size cap = false ↔ ∀ c, cap = some c → size ≤ c := by
  cases cap <;> simp [exceeds]

/-- R128: the capacity checks pass. -/
theorem withinCapacity_ok_iff {p : Platform} {g : Geometry} :
    withinCapacity p g = .ok g ↔ exceeds g.gb p.busMaxXfer = false ∧ exceeds g.bb p.maxBitmapBytes = false ∧
      exceeds g.fb p.maxFrameBytes = false := by
  unfold withinCapacity
  split_ifs with hbus hmem
  · simp [hbus]
  · simpa [hbus, or_iff_not_imp_left] using hmem
  · simpa [hbus] using hmem

/-- R128, R131: the bus is checked first. -/
theorem withinCapacity_eConfig_iff {p : Platform} {g : Geometry} :
    withinCapacity p g = .error .eConfig ↔ exceeds g.gb p.busMaxXfer = true := by
  unfold withinCapacity
  split_ifs with hbus <;> simp [hbus]

/-- R128, R130: the memory is checked after the bus. -/
theorem withinCapacity_eNomem_iff {p : Platform} {g : Geometry} :
    withinCapacity p g = .error .eNomem ↔ exceeds g.gb p.busMaxXfer = false ∧
      (exceeds g.bb p.maxBitmapBytes = true ∨ exceeds g.fb p.maxFrameBytes = true) := by
  unfold withinCapacity
  split_ifs with hbus hmem
  · simp [hbus]
  · simpa [hbus] using hmem
  · simpa [hbus] using hmem

theorem derive_of_valid {p : Platform} {w h n : Nat} (hv : Valid w h n) :
    derive p w h n = withinCapacity p (geometryOf w h n) := if_pos hv

theorem derive_of_not_valid {p : Platform} {w h n : Nat} (hv : ¬ Valid w h n) :
    derive p w h n = .error .eConfig := if_neg hv

/-- Settles O13: rejected inputs answer E_CONFIG; for accepted ones the capacity checks decide, each with its own
equivalence. -/
theorem deriveOutcomes : Obligations.DeriveOutcomes := by
  rintro p w h n _ _ _ _ _ g rfl rfl rfl rfl rfl hgeometry
  obtain rfl : g = geometryOf w h n := hgeometry
  simp only [← not_exceeds_iff, ← exceeds_iff]
  by_cases hv : Valid w h n
  · rw [derive_of_valid hv, and_iff_right hv, and_iff_right hv, or_iff_right (not_not_intro hv)]
    exact ⟨withinCapacity_ok_iff, withinCapacity_eConfig_iff, withinCapacity_eNomem_iff⟩
  · rw [derive_of_not_valid hv]
    refine ⟨?_, ?_, ?_⟩
    · exact iff_of_false nofun fun hok => hv hok.1
    · exact iff_of_true rfl (.inl hv)
    · exact iff_of_false nofun fun hnomem => hv hnomem.1

/-! ### The slices of the Wire Frame -/

section Accepted

variable {g : Geometry} (hg : g.Accepted)
include hg

/-- R127: an offset lies in the slice its quotient by GB names, and in no other. -/
theorem Geometry.Accepted.slice_iff {k o : Nat} : (k * g.gb ≤ o ∧ o < k * g.gb + g.gb) ↔ o / g.gb = k := by
  have hgb : 0 < g.gb := Nat.lt_of_lt_of_le (by decide) hg.three_le_gb
  rw [Nat.div_eq_iff hgb]
  omega

/-- R126, R127: the Wire Frame has four slices. -/
theorem Geometry.Accepted.slice_lt {o : Nat} (ho : o < g.fb) : o / g.gb < 4 :=
  Nat.div_lt_of_lt_mul (Nat.mul_comm _ _ ▸ hg.fb_eq ▸ ho)

end Accepted

/-- Settles O15: the slice of an offset is its quotient by GB. -/
theorem slicesCoverTheWireFrame : Obligations.SlicesCoverTheWireFrame := by
  intro w h n hv
  have hg := hv.accepted
  refine ⟨?_, fun o ho => ⟨_, hg.slice_lt ho, hg.slice_iff.2 rfl, fun j _ hle hlt => ?_⟩⟩
  · rw [hg.fb_eq, hg.gb_eq, hg.pbb_eq, Nat.mul_assoc]
    rfl
  · exact (hg.slice_iff.1 ⟨hle, hlt⟩).symm

end Sys2Proof.Machine
end

section
/-! PROOFS. The compositor's addresses, its inverse mapping and its frames (R142 to R154): the ranges of R146 (O32), the
coordinate each data bit carries (O38), what one PIXEL does to a byte and that two commute (O33, O34), the closed form
(O35) and the two uniform snapshots (O39). -/

namespace Sys2Proof.Machine

/-! ### Addresses -/

section Accepted

variable {g : Geometry} (hg : g.Accepted)
include hg

/-- R69, R146: the group of a column is the slice its block's first byte lies in. -/
theorem Geometry.Accepted.groupOf_eq_div {x : Nat} (hx : x < g.w) : groupOf x = blockBase g x / g.gb :=
  (hg.offset_parts (hg.panelOf_lt hx) hg.pbb_pos (groupOf x)).1.symm

theorem Geometry.Accepted.groupOf_eq_of_blockBase_eq {x x' : Nat} (hx : x < g.w) (hx' : x' < g.w)
    (h : blockBase g x = blockBase g x') : groupOf x = groupOf x' := by
  rw [hg.groupOf_eq_div hx, hg.groupOf_eq_div hx', h]

/-- R146: the last block of the Wire Frame is panel N-1 of group 3. -/
theorem Geometry.Accepted.blockBase_le {x : Nat} (hx : x < g.w) : blockBase g x ≤ 3 * g.gb + (g.n - 1) * g.pbb :=
  Nat.add_le_add (Nat.mul_le_mul_right _ (Nat.le_of_lt_succ (groupOf_lt x)))
    (Nat.mul_le_mul_right _ (Nat.le_sub_one_of_lt (hg.panelOf_lt hx)))

/-- R146: the data bytes of a block are the CPG*R bytes after its header. -/
theorem Geometry.Accepted.dataAddr_sub_le {x y : Nat} (hx : x < g.w) (hy : y < g.h) :
    dataAddr g x y - blockBase g x ≤ g.cpg * g.r := by
  have hin := hg.data_lt (hg.colInGroup_lt hx) (hg.vertReg_lt hy)
  have hpbb := hg.pbb_eq
  rw [dataAddr]
  omega

omit hg in
theorem blockBase_lt_dataAddr (x y : Nat) : blockBase g x < dataAddr g x y := by
  rw [dataAddr]
  omega

omit hg in
/-- R146: the sampled index lies in row `y` of the display. -/
theorem sampleIndex_lt_mul {x y : Nat} (hx : x < g.w) (hy : y < g.h) : sampleIndex g x y < g.w * g.h :=
  calc sampleIndex g x y
    _ < (y + 1) * g.w := by rw [sampleIndex, xSample, Nat.add_mul]; omega
    _ ≤ g.h * g.w := Nat.mul_le_mul_right _ hy
    _ = g.w * g.h := Nat.mul_comm _ _

end Accepted

/-- Settles O32, one lemma on accepted geometries for each bound of R146. -/
theorem compositorAddressesInRange : Obligations.CompositorAddressesInRange := by
  intro g x y hg hx hy
  refine ⟨⟨hg.colInGroup_lt hx, hg.vertReg_lt hy, blockBase_lt_dataAddr x y, hg.dataAddr_sub_le hx hy,
    Nat.eq_sub_of_add_eq hg.pbb_eq.symm, hg.blockBase_le hx, hg.dataAddr_lt hx hy, sampleIndex_lt_mul hx hy,
    hg.sampleIndex_lt hx hy⟩, hg.groupOf_eq_div hx, fun x' hx' => ?_⟩
  exact ⟨hg.groupOf_eq_of_blockBase_eq hx hx', hg.dataAddr_ne_blockBase hx hy hx'⟩

/-! ### The inverse mapping -/

section Accepted

variable {g : Geometry} (hg : g.Accepted)
include hg

/-- R94, R95: data byte (c, r) of a block, bit `b`, carries one column and one row. -/
theorem Geometry.Accepted.dataPlace_iff {x y grp p c r b : Nat} (hx : x < g.w) (hy : y < g.h) (hgrp : grp < 4)
    (hp : p < g.n) (hc : c < g.cpg) (hr : r < g.r) (hb : b < 8) :
    dataAddr g x y = grp * g.gb + p * g.pbb + (1 + (c * g.r + r)) ∧ bitPos g y = b ↔
      x = displayColumn g grp p c ∧ 8 * r + 7 - b < g.h ∧ y = g.h - 1 - (8 * r + 7 - b) := by
  have hplace : 1 + (colInGroup g x * g.r + vertReg g y) = 1 + (c * g.r + r) ↔
      colInGroup g x = c ∧ vertReg g y = r := by
    refine ⟨fun h => ?_, fun ⟨hcol, hreg⟩ => by rw [hcol, hreg]⟩
    obtain ⟨hcol, hreg⟩ := mul_add_parts (colInGroup g x) (hg.vertReg_lt hy)
    obtain ⟨hc', hr'⟩ := mul_add_parts c hr
    rw [Nat.add_left_cancel h] at hcol hreg
    exact ⟨hcol.symm.trans hc', hreg.symm.trans hr'⟩
  rw [hg.dataAddr_eq_iff hx hy hp (hg.data_lt hc hr), hplace, hg.eq_displayColumn_iff hgrp hc,
    ← vertReg_bitPos_iff hy hb]
  tauto

/-- R95: every byte of a block but its header is a data byte (c, r). -/
theorem Geometry.Accepted.exists_data {k : Nat} (hk : k + 1 < g.pbb) :
    ∃ c < g.cpg, ∃ r < g.r, k + 1 = 1 + (c * g.r + r) := by
  have hr := hg.r_pos
  refine ⟨k / g.r, ?_, k % g.r, Nat.mod_lt _ hr, by rw [Nat.div_add_mod', Nat.add_comm]⟩
  rw [Nat.div_lt_iff_lt_mul hr]
  have hpbb := hg.pbb_eq
  omega

/-- R151: the inverse mapping at a block's parts. -/
theorem Geometry.Accepted.originOf_offset {p k : Nat} (hp : p < g.n) (hk : k < g.pbb) (grp b : Nat) :
    originOf g (grp * g.gb + p * g.pbb + k) b = blockOrigin g grp p k b := by
  obtain ⟨hgrp, hpanel, hplace⟩ := hg.offset_parts hp hk grp
  rw [originOf, hgrp, hpanel, hplace]

omit hg in
/-- R151: what the inverse mapping answers for a data byte (c, r). -/
theorem blockOrigin_data_eq_some_iff {grp p c r b x y : Nat} (hr : r < g.r) :
    blockOrigin g grp p (1 + (c * g.r + r)) b = some (x, y) ↔
      x = displayColumn g grp p c ∧ 8 * r + 7 - b < g.h ∧ y = g.h - 1 - (8 * r + 7 - b) := by
  obtain ⟨hcol, hreg⟩ := mul_add_parts c hr
  rw [blockOrigin, Nat.add_sub_cancel_left, hcol, hreg]
  grind

/-- R149, R151: the inverse mapping answers the one display coordinate whose data bit it is asked for. -/
theorem Geometry.Accepted.originOf_eq_some_iff {o b x y : Nat} (ho : o < g.fb) (hb : b < 8) :
    originOf g o b = some (x, y) ↔ (x < g.w ∧ y < g.h) ∧ dataAddr g x y = o ∧ bitPos g y = b := by
  obtain ⟨grp, hgrp, p, hp, k, hk, rfl⟩ := hg.exists_offset ho
  rw [hg.originOf_offset hp hk]
  cases k with
  | zero =>
    refine iff_of_false (by simp [blockOrigin]) ?_
    rintro ⟨⟨hx, hy⟩, haddr, _⟩
    obtain ⟨_, _, hheader⟩ := (hg.dataAddr_eq_iff hx hy hp hk).1 haddr
    omega
  | succ k =>
    obtain ⟨c, hc, r, hr, hplace⟩ := hg.exists_data hk
    rw [hplace, blockOrigin_data_eq_some_iff hr]
    constructor
    · rintro ⟨hx, hrow, hy⟩
      have hx' : x < g.w := hx ▸ hg.displayColumn_lt hgrp hp hc
      have hy' : y < g.h := by omega
      exact ⟨⟨hx', hy'⟩, (hg.dataPlace_iff hx' hy' hgrp hp hc hr hb).2 ⟨hx, hrow, hy⟩⟩
    · rintro ⟨⟨hx, hy⟩, hplace⟩
      exact (hg.dataPlace_iff hx hy hgrp hp hc hr hb).1 hplace

omit hg in
theorem bitPos_lt (y : Nat) : bitPos g y < 8 := Nat.lt_succ_of_le (Nat.sub_le _ _)

end Accepted

/-- Settles O38: both directions of the equivalence that characterises the inverse mapping. -/
theorem mappingIsInvertible : Obligations.MappingIsInvertible := by
  refine fun g hg => ⟨fun x y hx hy => ?_, fun o b x y ho hb horigin => ?_⟩
  · have hbit := bitPos_lt (g := g) y
    exact ⟨hbit, (hg.originOf_eq_some_iff (hg.dataAddr_lt hx hy) hbit).2 ⟨⟨hx, hy⟩, rfl, rfl⟩⟩
  · obtain ⟨⟨hx, hy⟩, hplace⟩ := (hg.originOf_eq_some_iff ho hb).1 horigin
    exact ⟨hx, hy, hplace⟩

/-! ### Full memories -/

theorem numberFrom_of_listed {a n : Nat} {cs : List Host.Cell} (h : listed cs = List.range' a n) :
    numberFrom a (cs.map Prod.snd) = cs := by
  induction cs generalizing a n with
  | nil => rfl
  | cons c rest ih =>
    cases n with
    | zero => simp at h
    | succ n =>
      simp only [listed, List.map_cons, List.range'_succ, List.cons.injEq] at h
      obtain ⟨rfl, hrest⟩ := h
      simp only [List.map_cons, numberFrom, ih hrest]

/-- A full memory is its bytes, numbered from address 0. -/
theorem Memory.eq_numbered_of_full {m : Memory} (h : m.full = true) :
    ∃ bs : List Byte, m = { size := bs.length, cells := numberFrom 0 bs } := by
  have hlisted := (Memory.full_iff m).1 h
  have hlen : m.cells.length = m.size := by simpa using congrArg List.length hlisted
  refine ⟨m.cells.map Prod.snd, ?_⟩
  rw [numberFrom_of_listed (hlisted.trans List.range_eq_range'), List.length_map, hlen]

theorem Memory.read_numbered (name : MemoryName) {bs : List Byte} {o : Nat} (ho : o < bs.length) :
    Memory.read name { size := bs.length, cells := numberFrom 0 bs } o = .ok bs[o] :=
  Memory.read_ok_iff.2 ⟨ho, by simp [lookupCell_numberFrom, ho]⟩

/-- Two full memories of one size that read the same at every address are the same memory. -/
theorem Memory.eq_of_read {name : MemoryName} {m m' : Memory} (h : m.full = true) (h' : m'.full = true)
    (hsize : m.size = m'.size) (hread : ∀ o < m.size, m.read name o = m'.read name o) : m = m' := by
  obtain ⟨bs, rfl⟩ := Memory.eq_numbered_of_full h
  obtain ⟨bs', rfl⟩ := Memory.eq_numbered_of_full h'
  have hbytes : bs = bs' := List.ext_getElem hsize fun o ho ho' => by
    simpa only [Memory.read_numbered name ho, Memory.read_numbered name ho', Except.ok.injEq] using hread o ho
  rw [hbytes]

/-! ### One PIXEL -/

/-- What PIXEL(x, y) makes of the byte `v` at offset `o` (R142 to R144). -/
def pixelByte (g : Geometry) (ss : Memory) (x y o : Nat) (v : Byte) : Byte :=
  if pixelAt ss (sampleIndex g x y) = true then
    if o = dataAddr g x y then v ||| dataMask g y
    else if o = blockBase g x then BitVec.ofNat 8 (groupOf x)
    else v
  else v

section Pixel

variable {g : Geometry} {ss : Memory} (hg : g.Accepted) (hfull : ss.full = true) (hsize : ss.size = g.bb)
include hg

/-- R143, R144: the bytes two coordinates make of one byte do not depend on their order. -/
theorem pixelByte_comm {x y x' y' : Nat} (hx : x < g.w) (hy : y < g.h) (hx' : x' < g.w) (hy' : y' < g.h) (o : Nat)
    (v : Byte) : pixelByte g ss x y o (pixelByte g ss x' y' o v) = pixelByte g ss x' y' o (pixelByte g ss x y o v) := by
  have hcross : dataAddr g x y ≠ blockBase g x' := hg.dataAddr_ne_blockBase hx hy hx'
  have hcross' : dataAddr g x' y' ≠ blockBase g x := hg.dataAddr_ne_blockBase hx' hy' hx
  have hown : dataAddr g x y ≠ blockBase g x := hg.dataAddr_ne_blockBase hx hy hx
  have hown' : dataAddr g x' y' ≠ blockBase g x' := hg.dataAddr_ne_blockBase hx' hy' hx'
  by_cases hhead : o = blockBase g x ∨ o = blockBase g x'
  · have hdata : o ≠ dataAddr g x y ∧ o ≠ dataAddr g x' y' := by grind
    have hgroup := hg.groupOf_eq_of_blockBase_eq hx hx'
    simp only [pixelByte, if_neg hdata.1, if_neg hdata.2]
    grind
  · obtain ⟨hhead, hhead'⟩ := not_or.1 hhead
    simp only [pixelByte, if_neg hhead, if_neg hhead']
    split_ifs
    · rw [BitVec.or_assoc, BitVec.or_comm (dataMask g y'), ← BitVec.or_assoc]
    all_goals rfl

include hfull hsize

/-- R142: over a full snapshot, PIXEL draws its coordinate where the sample is lit. -/
theorem pixel_of_full {x y : Nat} (hx : x < g.w) (hy : y < g.h) (wf : Memory) :
    pixel g ss x y wf = if pixelAt ss (sampleIndex g x y) = true then lightPixel g x y wf else .ok wf := by
  simp only [pixel, readPixel_of_full hfull (hsize ▸ hg.sampleIndex_lt hx hy)]

/-- R142: PIXEL never faults, and makes of every byte what `pixelByte` says. -/
theorem pixel_reads {x y : Nat} {wf : Memory} (hx : x < g.w) (hy : y < g.h) (hwf : wf.full = true)
    (hwfSize : wf.size = g.fb) :
    ∃ wf', pixel g ss x y wf = .ok wf' ∧ wf'.full = true ∧ wf'.size = g.fb ∧
      ∀ o v, wf.read .wf o = .ok v → wf'.read .wf o = .ok (pixelByte g ss x y o v) := by
  rw [pixel_of_full hg hfull hsize hx hy]
  unfold pixelByte
  by_cases hlit : pixelAt ss (sampleIndex g x y) = true
  · simp only [if_pos hlit]
    obtain ⟨wf', old, hlight, hfull', hsize', hold, hread⟩ := lightPixel_reads hg hx hy hwf hwfSize
    refine ⟨wf', hlight, hfull', hsize', fun o v hv => ?_⟩
    rw [hread]
    split_ifs with hdata hhead
    · subst hdata
      rw [Except.ok.inj (hold.symm.trans hv)]
    · rfl
    · exact hv
  · simp only [if_neg hlit]
    exact ⟨wf, rfl, hwf, hwfSize, fun _ _ hv => hv⟩

end Pixel

/-- Settles O33: an unlit PIXEL does nothing, and a lit one is its two writes. -/
theorem litPixelSetsOneBit : Obligations.LitPixelSetsOneBit := by
  intro g ss wf x y hg hx hy hfull hsize hwf hwfSize
  rw [pixel_of_full hg hfull hsize hx hy]
  refine ⟨fun hdark => by simp [hdark], fun hlit => ?_⟩
  obtain ⟨wf', old, hlight, _, _, hold, hread⟩ := lightPixel_reads hg hx hy hwf hwfSize
  refine ⟨wf', old, by rw [if_pos hlit, hlight], hold, ?_, ?_, fun o hdata hhead => ?_⟩
  · rw [hread, if_pos rfl, dataMask]
  · rw [hread, if_neg (hg.dataAddr_ne_blockBase hx hy hx).symm, if_pos rfl]
  · rw [hread, if_neg hdata, if_neg hhead]

/-- Settles O34: both orders end in full memories that hold the same bytes. -/
theorem pixelOrderDoesNotMatter : Obligations.PixelOrderDoesNotMatter := by
  intro g ss wf x y x' y' hg hx hy hx' hy' hfull hsize hwf hwfSize
  obtain ⟨m1, h1, hm1, hs1, hr1⟩ := pixel_reads hg hfull hsize hx hy hwf hwfSize
  obtain ⟨last, h12, hlast, hslast, hrlast⟩ := pixel_reads hg hfull hsize hx' hy' hm1 hs1
  obtain ⟨m2, h2, hm2, hs2, hr2⟩ := pixel_reads hg hfull hsize hx' hy' hwf hwfSize
  obtain ⟨last', h21, hlast', hslast', hrlast'⟩ := pixel_reads hg hfull hsize hx hy hm2 hs2
  have hsame : last' = last := by
    refine Memory.eq_of_read (name := .wf) hlast' hlast (hslast'.trans hslast.symm) fun o ho => ?_
    obtain ⟨v, hv⟩ := Memory.read_of_full (name := .wf) hwf (a := o) (by omega)
    rw [hrlast' o _ (hr2 o v hv), hrlast o _ (hr1 o v hv), pixelByte_comm hg hx hy hx' hy']
  exact ⟨m1, m2, last, h1, h12, h2, hsame ▸ h21⟩

/-! ### BUILD and the uniform snapshots -/

/-- Settles O35: BUILD draws exactly the bits of the closed form. -/
theorem buildIsTheClosedForm : Obligations.BuildIsTheClosedForm :=
  fun _ _ hg hfull hsize => build_closedForm hg hfull hsize

/-- R150: the mask of a register that shows `n` rows has its upper `n` bits set. -/
theorem getLsbD_rowMask {n b : Nat} (hn : n ≤ 8) (hb : b < 8) :
    (0xFF#8 <<< (8 - n)).getLsbD b = decide (7 - b < n) := by
  rw [show 0xFF#8 = BitVec.allOnes 8 from rfl, BitVec.getLsbD_shiftLeft, BitVec.getLsbD_allOnes, Bool.eq_iff_iff]
  simp only [Bool.and_eq_true, Bool.not_eq_true', decide_eq_true_eq, decide_eq_false_iff_not]
  omega

/-- R154: every pixel of a uniform snapshot is lit as its bytes are. -/
theorem pixelAt_sampleIndex_of_uniform {g : Geometry} (hg : g.Accepted) {ss : Memory} {v : Byte} {lit : Bool}
    (hss : ∀ a < g.bb, ss.read .ss a = .ok v) (hv : ∀ b < 8, v.getLsbD b = lit) {x y : Nat} (hx : x < g.w)
    (hy : y < g.h) : pixelAt ss (sampleIndex g x y) = lit := by
  rw [pixelAt_of_read (hss _ (hg.sampleIndex_lt hx hy)), hv _ (pixelBit_lt _)]

/-- R154 (a): where no coordinate is lit, the closed form is 0 at every offset. -/
theorem wireByte_of_dark {g : Geometry} (hg : g.Accepted) {ss : Memory}
    (hdark : ∀ x < g.w, ∀ y < g.h, pixelAt ss (sampleIndex g x y) = false) {o : Nat} (ho : o < g.fb) :
    wireByte g ss o = 0#8 := by
  refine BitVec.eq_of_getLsbD_eq fun b hb => ?_
  rw [BitVec.getLsbD_zero, ← Bool.not_eq_true, getLsbD_wireByte_iff hg ho hb]
  rintro ⟨x, y, ⟨hx, hy, hlit⟩, _⟩
  exact Bool.noConfusion ((hdark x hx y hy).symm.trans hlit)

/-- R150, R154 (b): where every coordinate is lit, a register shows all its rows: eight, or in register R-1 the rest. -/
theorem byteOfBits_of_lit {g : Geometry} (hg : g.Accepted) {ss : Memory}
    (hlit : ∀ x < g.w, ∀ y < g.h, pixelAt ss (sampleIndex g x y) = true) {x r : Nat} (hx : x < g.w) (hr : r < g.r) :
    byteOfBits (dataBit g ss x r) =
      if r < g.r - 1 then 0xFF#8 else 0xFF#8 <<< (8 - (g.h - 8 * (g.r - 1))) := by
  have hlow := hg.lt_h
  have hhigh := hg.h_le
  refine BitVec.eq_of_getLsbD_eq fun b hb => ?_
  have hbit : dataBit g ss x r b = decide (8 * r + 7 - b < g.h) := by
    rw [dataBit, Bool.and_eq_left_iff_imp, decide_eq_true_eq]
    exact fun _ => hlit x hx (g.h - 1 - (8 * r + 7 - b)) (by omega)
  rw [getLsbD_byteOfBits _ hb, hbit]
  split_ifs with hfirst
  · rw [show 0xFF#8 = BitVec.allOnes 8 from rfl, BitVec.getLsbD_allOnes, decide_eq_decide]
    omega
  · rw [getLsbD_rowMask (by omega) hb, decide_eq_decide]
    omega

/-- Settles O39: the closed form of a snapshot without a lit coordinate, and of one without a dark one. -/
theorem darkAndLitFrames : Obligations.DarkAndLitFrames := by
  intro g ss wf hg hfull hsize hbuild
  constructor
  · intro hss o ho
    have hdark (x) (hx : x < g.w) (y) (hy : y < g.h) : pixelAt ss (sampleIndex g x y) = false :=
      pixelAt_sampleIndex_of_uniform hg hss (fun b _ => BitVec.getLsbD_zero) hx hy
    obtain ⟨wf', hbuild', _, hread⟩ := build_closedForm hg hfull hsize
    obtain rfl : wf = wf' := Except.ok.inj (hbuild.symm.trans hbuild')
    rw [hread o ho, wireByte_of_dark hg hdark ho]
  · intro hss grp hgrp p hp
    have hlit (x) (hx : x < g.w) (y) (hy : y < g.h) : pixelAt ss (sampleIndex g x y) = true :=
      pixelAt_sampleIndex_of_uniform hg hss (by decide) hx hy
    obtain ⟨hheader, _⟩ := builtHeaders g ss wf hg hfull hsize hbuild grp hgrp p hp
    obtain ⟨_, hh, _⟩ := hg.1.1
    have hcpg : 0 < g.cpg := Nat.zero_lt_of_lt hg.two_le_cpg
    have hx := hg.displayColumn_lt hgrp hp hcpg
    obtain ⟨hgroup, hpanel, _⟩ := (hg.eq_displayColumn_iff hgrp hcpg).1 rfl
    refine ⟨hheader ⟨_, 0, hx, hh, hgroup, hpanel, hlit _ hx 0 hh⟩, fun c hc r hr => ?_⟩
    rw [Nat.add_assoc _ (c * g.r), Nat.add_assoc _ 1, read_of_build hg hfull hsize hbuild hgrp hp (hg.data_lt hc hr),
      blockByte_data g ss grp p hr, byteOfBits_of_lit hg hlit (hg.displayColumn_lt hgrp hp hc) hr]

end Sys2Proof.Machine
end

section
/-! PROOFS. Progress (R146, R186, R245, R246): from the invariant, every operation whose guard holds takes its step, but
for a WRITE outside the bitmap, and so every request is answered (O43). -/

namespace Sys2Proof.Machine

/-- R103, R107: a request selects only operations whose guard holds. -/
theorem guardOf_of_operationOf {r : Request} {s : State} {i : Instr} (h : operationOf r s = some i) : guardOf i s := by
  cases r with
  | raw ag rq ops =>
    obtain ⟨_, _, _, hg⟩ := operationOf_raw_eq_some_iff.1 h
    exact hg
  | line j =>
    obtain ⟨hsome, hnone⟩ := operationOf_line j s
    by_cases hg : guardOf j s
    · exact Option.some.inj ((hsome hg).symm.trans h) ▸ hg
    · exact absurd ((hnone hg).symm.trans h) nofun

/-- R215, R216: an attached block takes a WRITE inside its bitmap, and refuses one outside. -/
theorem exec_write_of_inv {s : State} (hs : s.Inv) (hatt : s.att = true) (a : Nat) (d : Byte) :
    (∃ t, exec (.write a d) s = .next t) ∨ exec (.write a d) s = .refused (.writeOutOfRange a) := by
  obtain ⟨g, bm, _, _, hgeom, hbm, _, _, hf⟩ := hs.attached hatt
  by_cases ha : a < g.bb
  · obtain ⟨last, hread⟩ := Memory.read_of_full (name := .bm) hf.bmFull (hf.bmSize ▸ ha)
    obtain ⟨_, _, hstep⟩ := exec_write_of_read hs hatt hgeom hbm hread d
    exact .inl ⟨_, hstep⟩
  · exact .inr (exec_write_outOfRange hs.coherent hatt hgeom (Nat.not_lt.1 ha))

/-- R146, R246: from the invariant, every operation but WRITE takes its step where its guard holds: BUILD finds every
sample and every Wire Frame byte, and SEND.ISSUE every byte of its slice. -/
theorem exec_of_guardOf {s : State} {i : Instr} (hs : s.Inv) (hg : guardOf i s) (hwrite : ∀ a d, i ≠ .write a d) :
    ∃ t, exec i s = .next t := by
  cases i with
  | write a d => exact absurd rfl (hwrite a d)
  | compose =>
    obtain ⟨g, bm, _, _, hgeom, hbm, _⟩ := hs.attached hg.1
    obtain ⟨_, _, _, hstep, _⟩ := exec_compose_of_inv hs hg hgeom hbm
    exact ⟨_, hstep⟩
  | sendIssue =>
    obtain ⟨g, _, _, wf, hgeom, _, _, hwf, _⟩ := hs.attached hg.1
    obtain ⟨_, _, hstep⟩ := exec_sendIssue_of_inv hs hg hgeom hwf
    exact ⟨_, hstep⟩
  | attach | detach | start | sendDone | expire | advance | drain | busOk | busErr =>
    exact ⟨_, guarded_of hs.coherent hg⟩

/-- R186, R216: from the invariant, the operation a request selects ends in a next state. -/
theorem takeStep_of_inv {s : State} {i : Instr} (hs : s.Inv) (hg : guardOf i s) : ∃ t, takeStep i s = .next t := by
  by_cases hwrite : ∃ a d, i = .write a d
  · obtain ⟨a, d, rfl⟩ := hwrite
    rcases exec_write_of_inv hs hg a d with ⟨t, ht⟩ | hrefused
    · exact ⟨t, by simp only [takeStep, ht]⟩
    · exact ⟨s, by simp only [takeStep, hrefused]⟩
  · have other : ∀ a d, i ≠ .write a d := fun a d hi => hwrite ⟨a, d, hi⟩
    rw [takeStep_of_not_writeOutOfRange (exec_not_writeOutOfRange other)]
    exact exec_of_guardOf hs hg other

theorem present_of_inv {s : State} (hs : s.Inv) (r : Request) : ∃ t, present r s = .next t := by
  rw [present, if_pos hs.coherent]
  split
  · exact takeStep_of_inv hs (guardOf_of_operationOf ‹_›)
  · exact ⟨s, rfl⟩

/-- Settles O43: fetching keeps the invariant, and from the invariant every request is answered. -/
theorem stepAlwaysGoesOn : Obligations.StepAlwaysGoesOn := by
  intro s hs
  obtain ⟨requests, k, hfetch⟩ := fetch_frame s
  rw [step, hfetch]
  exact present_of_inv (hs.of_fetch requests k) _

end Sys2Proof.Machine
end

section
/-! PROOFS. The effects of the scheduler's operations (R174 to R180), each from its function's equation (O22 to O28), and
the short sequences around a failed transfer and around a DETACH (R184, R249: O51 to O54). -/

namespace Sys2Proof.Machine

/-! ### One operation -/

/-- Settles O22: START's whole body is this update. -/
theorem startEffect : Obligations.StartEffect :=
  fun _ hc hatt hstp hst => guarded_of hc ⟨hatt, hstp, hst⟩

/-- Settles O23: the snapshot reads as BM does, and BUILD leaves the closed form of the snapshot. -/
theorem composeEffect : Obligations.ComposeEffect := by
  intro s g bm hs hg hgeom hbm
  obtain ⟨bytes, ss, wf, hstep, hbytes, rfl, hsize, hwire⟩ := exec_compose_of_inv hs hg hgeom hbm
  obtain ⟨_, _, _, _, hf⟩ := hs.fits_of_bm hg.1 hgeom hbm
  obtain ⟨hlen, hread⟩ := Memory.readMany_ok_iff.1 hbytes
  simp only [Nat.zero_add] at hread
  exact ⟨bytes, _, wf, hlen, hread, rfl, read_snapshot_iff hf.bmSize hbytes, hsize, hwire, hstep⟩

/-- Settles O24: during a frame the slice holds a value at every offset. -/
theorem sendIssueEffect : Obligations.SendIssueEffect := by
  intro s g wf hs hg hgeom hwf
  obtain ⟨burst, ⟨hlen, hread⟩, hstep⟩ := exec_sendIssue_of_inv hs hg hgeom hwf
  exact ⟨burst, hlen, hread, sendIssueFields_eq s burst ▸ hstep⟩

/-- Settles O25: XST alone decides whether a log event comes first. -/
theorem sendDoneEffect : Obligations.SendDoneEffect := by
  intro s hc hg
  have hstep : exec .sendDone s = .next (sendDoneState s) := guarded_of hc hg
  rw [hstep, sendDoneState_eq, List.append_assoc]

/-- Settles O26: EXPIRE's one update names no memory. -/
theorem expireEffect : Obligations.ExpireEffect := by
  intro s hc hg
  have hstep : exec .expire s = .next (expireState s) := guarded_of hc hg
  rw [hstep, expireState_eq]

/-- Settles O27: the counter's own wrap-around is the step from group 3 to group 0. -/
theorem advanceEffect : Obligations.AdvanceEffect := by
  intro s hc hatt hstp hst hwak
  have hstep : exec .advance s = .next (advanceState s) := guarded_of hc ⟨hatt, hstp, hst, hwak⟩
  rw [hstep, advanceState_eq]
  refine ⟨fun hlast => ?_, fun hlast => by rw [if_neg hlast]⟩
  rw [if_pos hlast, hlast]
  rfl

/-- Settles O28: no update of DRAIN names TAR or CS. -/
theorem drainEffect : Obligations.DrainEffect := by
  intro s hc hg
  have hstep : exec .drain s = .next (drainState s) := guarded_of hc hg
  rw [hstep, drainState_eq, List.append_assoc]

/-! ### A failed transfer -/

/-- R177, R221, R222: a completion enables SEND.DONE whatever its status, unless a detach is pending. -/
theorem guardSendDone_of_completed {s : State} (hg : GuardBusOk s) (hstp : s.stp = false) (status : Bool) :
    GuardSendDone (completeTransfer status s) := by
  obtain ⟨hatt, hst, _⟩ := hg
  exact ⟨hatt, hstp, hst, rfl, rfl⟩

/-- R177, R184: where a transfer is outstanding, SEND.DONE takes its step after either completion. -/
theorem exec_sendDone_of_completed {s : State} (hc : s.Coherent) (hg : GuardBusOk s) (hstp : s.stp = false)
    (status : Bool) :
    exec .sendDone (completeTransfer status s) = .next (sendDoneState (completeTransfer status s)) :=
  guarded_of (completeTransfer_coherent hc hg status) (guardSendDone_of_completed hg hstp status)

/-- Settles O51: both completions lead through SEND.DONE, and no field but XST and the trace reads the status. -/
theorem failureDoesNotChangeTheSchedule : Obligations.FailureDoesNotChangeTheSchedule := by
  intro s hc hg hstp
  have hok : exec .busOk s = .next (completeTransfer false s) := guarded_of hc hg
  have herr : exec .busErr s = .next (completeTransfer true s) := guarded_of hc hg
  have hdone := exec_sendDone_of_completed hc hg hstp
  refine ⟨_, _, _, _, hok, herr, hdone false, hdone true, ?_, ?_, ?_⟩
  · simp [completeTransfer]
  · simp [completeTransfer]
  · simp only [sendDoneState_eq]
    rfl

/-! ### DETACH and DRAIN -/

/-- R180, R214: with the bus free, DRAIN takes its step right after DETACH. -/
theorem runOps_detach_drain {s : State} (hc : s.Coherent) (hg : GuardDetach s) (hbsy : s.bsy = false) :
    runOps [.detach, .drain] s = some (drainState (detachState s)) := by
  have hdrain : GuardDrain (detachState s) := by
    rw [detachState_eq]
    exact ⟨hg.1, rfl, hbsy⟩
  have hstep : exec .detach s = .next (detachState s) := guarded_of hc hg
  have hstep' : exec .drain (detachState s) = .next (drainState (detachState s)) :=
    guarded_of (detachState_coherent hc hg) hdrain
  rw [runOps_cons hstep, runOps_cons hstep', runOps]

/-- Settles O52: DETACH cancels the timer that EXPIRE finds expired, and DRAIN clears the wake EXPIRE posted. -/
theorem detachAndExpireRace : Obligations.DetachAndExpireRace := by
  intro s hc hg
  have ⟨hatt, hstp, hst, htar⟩ := hg
  obtain ⟨hbsy, hdon, _⟩ := (coherent_iff_pulseWait hatt hst).1 hc
  have hexpire : exec .expire s = .next (expireState s) := guarded_of hc hg
  refine ⟨_, _, runOps_detach_drain hc ⟨hatt, hstp⟩ hbsy,
    (runOps_cons hexpire).trans (runOps_detach_drain (expireState_coherent hc hg) ⟨hatt, hstp⟩ hbsy), ?_⟩
  simp [drainState_eq, detachState_eq, expireState_eq, hdon, htar]

/-- Settles O53: no timer is armed during a transfer, so DETACH sets STP alone; DRAIN waits for BSY = 0 and finds the
failure posted. -/
theorem detachWaitsForTheBus : Obligations.DetachWaitsForTheBus := by
  intro s hc hg hbsy
  have ⟨hatt, _⟩ := hg
  have ⟨_, ⟨htransfer, _⟩, _⟩ := hc
  have hst : s.st = .send := htransfer (.inl hbsy)
  obtain ⟨hboth, htar, _⟩ := (coherent_iff_send hatt hst).1 hc
  obtain ⟨_, hunarmed, _⟩ := detachEffect s hc
  have hdetach : exec .detach s = .next { s with stp := true } := hunarmed hg htar
  have hc1 : State.Coherent { s with stp := true } := exec_coherent hdetach nofun
  have hbus : GuardBusOk { s with stp := true } := ⟨hatt, hst, hbsy, by simpa [hbsy] using hboth⟩
  have hdrain : exec .drain { s with stp := true } = .refused (.guardFails "DRAIN") :=
    guarded_refuses hc1 fun ⟨_, _, hfree⟩ => Bool.noConfusion (hbsy.symm.trans hfree)
  refine ⟨_, _, _, hdetach, hdrain, guarded_of hc1 hbus,
    guarded_of (completeTransfer_coherent hc1 hbus true) ⟨hatt, rfl, rfl⟩, ?_, rfl⟩
  simp [completeTransfer]

/-- Settles O54: DRAIN resets every field but BSY, TAR and CS, and R37 holds these at their reset values once ATT = 0. -/
theorem drainReturnsResetValues : Obligations.DrainReturnsResetValues := by
  intro s t hs h
  have hc := exec_coherent h fun _ => hs.stoppedIsHigh
  obtain ⟨_, _, rfl⟩ := execDrain_next h
  obtain ⟨_, _, _, hbsy, _, htar, _, hcs⟩ := (coherent_iff_unattached rfl).1 hc
  refine ⟨?_, _, (drainState_trace s).trans (List.append_assoc ..).symm⟩
  rw [drainState_eq] at hbsy htar hcs ⊢
  simp only at hbsy htar hcs
  simp only [State.reset, hbsy, htar, hcs]

end Sys2Proof.Machine
end

section
/-! PROOFS. Fair runs (R284): a condition that only certain operations end lasts in a run until one of them is taken, and
fairness says that one is. So a DETACH is followed by its DRAIN (O59), and a frame goes through the lines of its four
groups (O60). -/

namespace Sys2Proof.Machine

section Runs

variable {asks : Nat → Request} {states : Nat → State}

/-! ### What lasts until an operation ends it -/

section Lasting

variable {P : State → Prop} {ends : Instr → Prop} {k : Nat} (hrun : IsRun asks states)
  (keeps : ∀ i s t, P s → ¬ ends i → exec i s = .next t → P t) (hk : P (states k))

include hrun keeps hk

/-- A condition that holds once lasts as long as no ending operation is taken: at every other place the run stands still
or takes an operation that keeps it. -/
theorem IsRun.lasts {j : Nat} (hkj : k ≤ j)
    (hquiet : ∀ m, k ≤ m → m < j → ∀ i, Takes asks states m i → ¬ ends i) : P (states j) := by
  induction j, hkj using Nat.le_induction with
  | base => exact hk
  | succ j hkj ih =>
    have hj : P (states j) := ih fun m hkm hmj => hquiet m hkm (Nat.lt_succ_of_lt hmj)
    rcases hrun.place j with hsame | ⟨i, ht, hstep⟩
    · rwa [hsame]
    · exact keeps i _ _ hj (hquiet j hkj (Nat.lt_succ_self j) i ht) hstep

/-- Where an ending operation is taken or the condition fails some time, there is a first ending operation, and the
condition holds up to it. -/
theorem IsRun.first_end
    (hfair : ∃ j, k ≤ j ∧ ((∃ i, ends i ∧ Takes asks states j i) ∨ ¬ P (states j))) :
    ∃ j i, k ≤ j ∧ ends i ∧ Takes asks states j i ∧ P (states j) ∧
      ∀ m, k ≤ m → m < j → P (states m) ∧ ∀ i, Takes asks states m i → ¬ ends i := by
  have hend : ∃ j, k ≤ j ∧ ∃ i, ends i ∧ Takes asks states j i := by
    obtain ⟨j, hkj, hend | hnot⟩ := hfair
    · exact ⟨j, hkj, hend⟩
    · by_contra hnever
      exact hnot (hrun.lasts keeps hk hkj fun m hkm _ i ht he => hnever ⟨m, hkm, i, he, ht⟩)
  classical
  obtain ⟨j, ⟨hkj, i, he, ht⟩, hfirst⟩ := Nat.findX hend
  have hquiet : ∀ m, k ≤ m → m < j → ∀ i, Takes asks states m i → ¬ ends i :=
    fun m hkm hmj i ht he => hfirst m hmj ⟨hkm, i, he, ht⟩
  refine ⟨j, i, hkj, he, ht, hrun.lasts keeps hk hkj hquiet, fun m hkm hmj => ⟨?_, hquiet m hkm hmj⟩⟩
  exact hrun.lasts keeps hk hkm fun l hkl hlm => hquiet l hkl (Nat.lt_trans hlm hmj)

end Lasting

/-- R47: a run only appends to the trace. -/
theorem IsRun.trace_append (hrun : IsRun asks states) {k j : Nat} (hkj : k ≤ j) :
    ∃ events, (states j).trace = (states k).trace ++ events := by
  induction j, hkj using Nat.le_induction with
  | base => exact ⟨[], (List.append_nil _).symm⟩
  | succ j hkj ih =>
    obtain ⟨events, htrace⟩ := ih
    rcases hrun.place j with hsame | ⟨i, _, hstep⟩
    · exact ⟨events, hsame ▸ htrace⟩
    · obtain ⟨more, hmore⟩ := exec_trace_append hstep
      exact ⟨events ++ more, by rw [hmore, htrace, List.append_assoc]⟩

/-! ### After a DETACH -/

/-- R24, R173: while a detach is pending only the writer, the bus and DRAIN have steps. -/
theorem operation_while_stopped {i : Instr} {s : State} (hg : guardOf i s) (hstp : s.stp = true) :
    (∃ a d, i = .write a d) ∨ i = .drain ∨ i = .busOk ∨ i = .busErr := by
  have stopped : s.stp ≠ false := by simp [hstp]
  cases i with
  | write a d => exact .inl ⟨a, d, rfl⟩
  | drain => exact .inr (.inl rfl)
  | busOk => exact .inr (.inr (.inl rfl))
  | busErr => exact .inr (.inr (.inr rfl))
  | attach =>
    obtain ⟨_, _, hrunning, _⟩ := hg
    exact absurd hrunning stopped
  | detach => exact absurd hg.2 stopped
  | start | compose | sendIssue | sendDone | expire | advance => exact absurd hg.2.1 stopped

/-- R180: the enabled DRAIN stays enabled until it is taken. -/
theorem exec_guardDrain {i : Instr} {s t : State} (hs : GuardDrain s) (hi : i ≠ .drain) (h : exec i s = .next t) :
    GuardDrain t := by
  have ⟨_, hstp, hfree⟩ := hs
  obtain ⟨_, hg⟩ := exec_guarded h
  rcases operation_while_stopped hg hstp with ⟨a, d, rfl⟩ | rfl | rfl | rfl
  · obtain ⟨_, _, _, _, _, _, _, _, _, rfl⟩ := execWrite_next h
    exact hs
  · exact absurd rfl hi
  all_goals
    obtain ⟨_, _, hbusy, _⟩ := hg
    exact Bool.noConfusion (hbusy.symm.trans hfree)

/-- A detach is pending while a transfer is outstanding (R249). -/
abbrev StoppedInTransfer (s : State) : Prop := s.att = true ∧ s.stp = true ∧ s.bsy = true

/-- R249: until the bus completes, nothing ends that wait. -/
theorem exec_stoppedInTransfer {i : Instr} {s t : State} (hs : StoppedInTransfer s)
    (hi : ¬ (i = .busOk ∨ i = .busErr)) (h : exec i s = .next t) : StoppedInTransfer t := by
  have ⟨_, hstp, hbusy⟩ := hs
  obtain ⟨_, hg⟩ := exec_guarded h
  rcases operation_while_stopped hg hstp with ⟨a, d, rfl⟩ | rfl | hbus
  · obtain ⟨_, _, _, _, _, _, _, _, _, rfl⟩ := execWrite_next h
    exact hs
  · obtain ⟨_, _, hfree⟩ := hg
    exact Bool.noConfusion (hbusy.symm.trans hfree)
  · exact absurd hbus hi

/-- R221, R222: what either completion answers. -/
theorem exec_completion {i : Instr} {s t : State} (hi : i = .busOk ∨ i = .busErr) (h : exec i s = .next t) :
    GuardBusOk s ∧ ∃ status, t = completeTransfer status s := by
  rcases hi with rfl | rfl
  · obtain ⟨_, hg, ht⟩ := execBusOk_next h
    exact ⟨hg, false, ht⟩
  · obtain ⟨_, hg, ht⟩ := execBusErr_next h
    exact ⟨hg, true, ht⟩

/-- R249, R284: in a fair run a pending detach finds the bus free some time. -/
theorem FairRun.guardDrain_of_stopped (hrun : FairRun asks states) {k : Nat} (hatt : (states k).att = true)
    (hstp : (states k).stp = true) : ∃ j, k ≤ j ∧ GuardDrain (states j) := by
  by_cases hbsy : (states k).bsy = true
  · have hfair : ∃ j, k ≤ j ∧ ((∃ i, (i = .busOk ∨ i = .busErr) ∧ Takes asks states j i) ∨
        ¬ StoppedInTransfer (states j)) := by
      obtain ⟨j, hkj, ht | ht⟩ := hrun.bus k hbsy
      · exact ⟨j, hkj, .inl ⟨_, .inl rfl, ht⟩⟩
      · exact ⟨j, hkj, .inl ⟨_, .inr rfl, ht⟩⟩
    obtain ⟨j, i, hkj, hi, ht, ⟨hatt', hstp', _⟩, _⟩ := hrun.isRun.first_end
      (fun _ _ _ => exec_stoppedInTransfer) ⟨hatt, hstp, hbsy⟩ hfair
    have hwrite : ∀ a d, i ≠ .write a d := by rcases hi with rfl | rfl <;> exact nofun
    obtain ⟨_, status, hnext⟩ := exec_completion hi (hrun.isRun.takes ht hwrite)
    refine ⟨j + 1, Nat.le_succ_of_le hkj, ?_⟩
    rw [hnext]
    exact ⟨hatt', hstp', rfl⟩
  · exact ⟨k, Nat.le_refl k, hatt, hstp, by simpa using hbsy⟩

/-- R284: in a fair run an enabled DRAIN is taken. -/
theorem FairRun.drain_of_guardDrain (hrun : FairRun asks states) {k : Nat} (hg : GuardDrain (states k)) :
    ∃ j, k ≤ j ∧ Takes asks states j .drain := by
  have hfair : ∃ j, k ≤ j ∧ ((∃ i, i = .drain ∧ Takes asks states j i) ∨ ¬ GuardDrain (states j)) := by
    obtain ⟨j, hkj, hend⟩ := hrun.work k .drain (by simp [workOperations]) hg
    exact ⟨j, hkj, hend.imp_left fun ht => ⟨_, rfl, ht⟩⟩
  obtain ⟨j, _, hkj, rfl, ht, _⟩ :=
    hrun.isRun.first_end (fun _ _ _ => exec_guardDrain) hg hfair
  exact ⟨j, hkj, ht⟩

/-! ### What comes unless a DETACH comes first -/

/-- From place `k` the run comes, with no COMPOSE and no DETACH before, to a place of `goal` or to a DETACH. -/
def UnlessDetached (asks : Nat → Request) (states : Nat → State) (goal : Nat → Prop) (k : Nat) : Prop :=
  ∃ j, k ≤ j ∧ (∀ m, k ≤ m → m < j → ¬ Takes asks states m .compose ∧ ¬ Takes asks states m .detach) ∧
    (Takes asks states j .detach ∨ goal j)

theorem UnlessDetached.bind {goal goal' : Nat → Prop} {k : Nat} (h : UnlessDetached asks states goal k)
    (next : ∀ j, k ≤ j → goal j → UnlessDetached asks states goal' j) : UnlessDetached asks states goal' k := by
  obtain ⟨j, hkj, hquiet, hdetach | hgoal⟩ := h
  · exact ⟨j, hkj, hquiet, .inl hdetach⟩
  · obtain ⟨l, hjl, hquiet', hend⟩ := next j hkj hgoal
    refine ⟨l, Nat.le_trans hkj hjl, fun m hkm hml => ?_, hend⟩
    rcases Nat.lt_or_ge m j with hmj | hjm
    · exact hquiet m hkm hmj
    · exact hquiet' m hjm hml

theorem UnlessDetached.map {goal goal' : Nat → Prop} {k : Nat} (h : UnlessDetached asks states goal k)
    (himp : ∀ j, k ≤ j → goal j → goal' j) : UnlessDetached asks states goal' k := by
  obtain ⟨j, hkj, hquiet, hend⟩ := h
  exact ⟨j, hkj, hquiet, hend.imp_right (himp j hkj)⟩

/-- A place where the run takes another operation may come first. -/
theorem UnlessDetached.after {goal : Nat → Prop} {k : Nat} {i : Instr} (ht : Takes asks states k i)
    (hcompose : i ≠ .compose) (hdetach : i ≠ .detach) (h : UnlessDetached asks states goal (k + 1)) :
    UnlessDetached asks states goal k := by
  obtain ⟨j, hkj, hquiet, hend⟩ := h
  refine ⟨j, Nat.le_of_succ_le hkj, fun m hkm hmj => ?_, hend⟩
  rcases Nat.eq_or_lt_of_le hkm with rfl | hlt
  · exact ⟨fun h => hcompose (Option.some.inj (ht.symm.trans h)), fun h => hdetach (Option.some.inj (ht.symm.trans h))⟩
  · exact hquiet m hlt hmj

/-! ### The lines of a group -/

/-- Group `n` of a frame is being sent, no detach is pending, and the line `i` of GROUP (R108) is the next one. -/
structure AtLine (i : Instr) (n : Nat) (s : State) : Prop where
  guard : guardOf i s
  running : s.stp = false
  group : s.cg.toNat = n

/-- The operations that end the wait for a line of GROUP: a transfer may fail as well (GROUP.ERR, R108). -/
abbrev EndsLine (i j : Instr) : Prop := j = i ∨ (i = .busOk ∧ j = .busErr)

/-- R170: the lines of GROUP stand inside a frame of an attached block. -/
theorem AtLine.inFrame {i : Instr} {n : Nat} {s : State} (hs : AtLine i n s) (hi : i ∈ groupLines) :
    s.att = true ∧ s.InFrame := by
  obtain ⟨hg, _, _⟩ := hs
  cases i with
  | sendIssue | sendDone | expire | advance =>
    obtain ⟨hatt, _, hst, _⟩ := hg
    simp [hatt, State.InFrame, hst]
  | busOk =>
    obtain ⟨hatt, hst, _⟩ := hg
    exact ⟨hatt, .inl hst⟩
  | attach | detach | write | start | compose | drain | busErr => simp [groupLines] at hi

/-- R100, R173: at a line of GROUP only DETACH, WRITE and what ends the line have steps. -/
theorem AtLine.operation {i j : Instr} {n : Nat} {s : State} (hs : AtLine i n s) (hi : i ∈ groupLines)
    (hj : guardOf j s) : j = .detach ∨ (∃ a d, j = .write a d) ∨ EndsLine i j := by
  obtain ⟨hatt, hframe⟩ := hs.inFrame hi
  obtain ⟨hg, hstp, _⟩ := hs
  cases j with
  | detach => exact .inl rfl
  | write a d => exact .inr (.inl ⟨a, d, rfl⟩)
  | attach => exact Bool.noConfusion (hatt.symm.trans hj.1)
  | drain =>
    obtain ⟨_, hstopped, _⟩ := hj
    exact Bool.noConfusion (hstp.symm.trans hstopped)
  | start =>
    obtain ⟨_, _, hst⟩ := hj
    exact absurd hframe (not_inFrame (.inl hst))
  | compose =>
    obtain ⟨_, _, hst⟩ := hj
    exact absurd hframe (not_inFrame (.inr hst))
  | sendIssue | sendDone | expire | advance | busOk | busErr =>
    -- ST, BSY and DON tell the five lines apart.
    simp only [groupLines, List.mem_cons, List.not_mem_nil, or_false] at hi
    rcases hi with rfl | rfl | rfl | rfl | rfl <;> grind [guardOf]

theorem AtLine.lasts {i j : Instr} {n : Nat} {s t : State} (hs : AtLine i n s) (hi : i ∈ groupLines)
    (hj : ¬ (j = .detach ∨ EndsLine i j)) (h : exec j s = .next t) : AtLine i n t := by
  obtain ⟨hdetach, hends⟩ := not_or.1 hj
  obtain ⟨_, hg⟩ := exec_guarded h
  rcases hs.operation hi hg with rfl | ⟨a, d, rfl⟩ | hend
  · exact absurd rfl hdetach
  · obtain ⟨_, _, _, _, _, _, _, _, _, rfl⟩ := execWrite_next h
    obtain ⟨hguard, hstp, hcg⟩ := hs
    refine ⟨?_, hstp, hcg⟩
    cases i <;> exact hguard
  · exact absurd hend hends

/-- R284: fairness ends every line: of the work agent, of the bus, of the timer. -/
theorem FairRun.line_fair (hrun : FairRun asks states) {i : Instr} {n k : Nat} (hi : i ∈ groupLines)
    (hk : AtLine i n (states k)) :
    ∃ j, k ≤ j ∧ ((∃ i', (i' = .detach ∨ EndsLine i i') ∧ Takes asks states j i') ∨ ¬ AtLine i n (states j)) := by
  have hg := hk.guard
  cases i with
  | sendIssue | sendDone | advance =>
    obtain ⟨j, hkj, hend⟩ := hrun.work k _ (by simp [workOperations]) hg
    exact ⟨j, hkj, hend.imp (fun ht => ⟨_, .inr (.inl rfl), ht⟩) fun hnot hs => hnot hs.guard⟩
  | busOk =>
    obtain ⟨_, _, hbusy, _⟩ := hg
    obtain ⟨j, hkj, ht | ht⟩ := hrun.bus k hbusy
    · exact ⟨j, hkj, .inl ⟨_, .inr (.inl rfl), ht⟩⟩
    · exact ⟨j, hkj, .inl ⟨_, .inr (.inr ⟨rfl, rfl⟩), ht⟩⟩
  | expire =>
    obtain ⟨_, _, _, harmed⟩ := hg
    obtain ⟨j, hkj, ht | ht⟩ := hrun.timer k harmed
    · exact ⟨j, hkj, .inl ⟨_, .inr (.inl rfl), ht⟩⟩
    · exact ⟨j, hkj, .inl ⟨_, .inl rfl, ht⟩⟩
  | attach | detach | write | start | compose | drain | busErr => simp [groupLines] at hi

/-- R186, R284: in a fair run a line of GROUP is taken, unless a DETACH comes first. -/
theorem FairRun.line_taken (hrun : FairRun asks states) {i : Instr} {n k : Nat} (hi : i ∈ groupLines)
    (hk : AtLine i n (states k)) :
    UnlessDetached asks states (fun j => AtLine i n (states j) ∧ ∃ i', EndsLine i i' ∧ Takes asks states j i') k := by
  obtain ⟨j, i', hkj, hend, ht, hj, hbefore⟩ := hrun.isRun.first_end
    (fun _ _ _ hs => hs.lasts hi) hk (hrun.line_fair hi hk)
  refine ⟨j, hkj, fun m hkm hmj => ?_, ?_⟩
  · obtain ⟨hm, hquiet⟩ := hbefore m hkm hmj
    refine ⟨fun htc => ?_, fun htd => hquiet _ htd (.inl rfl)⟩
    rcases hm.operation hi (guardOf_of_operationOf htc) with hd | ⟨a, d, hw⟩ | hend
    · cases hd
    · cases hw
    · exact hquiet _ htc (.inr hend)
  · rcases hend with rfl | hend
    · exact .inl ht
    · exact .inr ⟨hj, i', hend, ht⟩

/-- R176 to R178, R221, R222: each line of GROUP leads to the one after it. -/
theorem AtLine.next {i i' j : Instr} {n : Nat} {s t : State} (hs : AtLine i n s)
    (hnext : (i, i') ∈ groupLines.zip groupLines.tail) (hend : EndsLine i j) (h : exec j s = .next t) :
    AtLine i' n t := by
  obtain ⟨hg, hstp, hcg⟩ := hs
  simp only [groupLines, List.tail_cons, List.zip_cons_cons, List.zip_nil_right, List.mem_cons, Prod.mk.injEq,
    List.not_mem_nil, or_false] at hnext
  rcases hnext with ⟨rfl, rfl⟩ | ⟨rfl, rfl⟩ | ⟨rfl, rfl⟩ | ⟨rfl, rfl⟩
  · obtain rfl : j = .sendIssue := by simpa [EndsLine] using hend
    obtain ⟨_, ⟨hatt, _, hst, _, hdon⟩, _, _, _, _, _, _, rfl⟩ := execSendIssue_next h
    exact ⟨⟨hatt, hst, rfl, hdon⟩, hstp, hcg⟩
  · obtain ⟨hbus, status, rfl⟩ := exec_completion (by simpa [EndsLine] using hend) h
    exact ⟨guardSendDone_of_completed hbus hstp status, hstp, hcg⟩
  · obtain rfl : j = .sendDone := by simpa [EndsLine] using hend
    obtain ⟨_, hdone, rfl⟩ := execSendDone_next h
    refine ⟨guardExpire_of_sendDone hdone, ?_, ?_⟩ <;> rw [sendDoneState_eq] <;> assumption
  · obtain rfl : j = .expire := by simpa [EndsLine] using hend
    obtain ⟨_, hexpire, rfl⟩ := execExpire_next h
    exact ⟨guardAdvance_of_expire hexpire, hstp, hcg⟩

/-- What ends a line is neither a COMPOSE nor a DETACH nor a WRITE. -/
theorem EndsLine.ne {i j : Instr} (hend : EndsLine i j) (hi : i ∈ groupLines) :
    j ≠ .compose ∧ j ≠ .detach ∧ ∀ a d, j ≠ .write a d := by
  simp only [groupLines, List.mem_cons, List.not_mem_nil, or_false] at hi
  rcases hend with rfl | ⟨_, rfl⟩
  · rcases hi with rfl | rfl | rfl | rfl | rfl <;> exact ⟨nofun, nofun, nofun⟩
  · exact ⟨nofun, nofun, nofun⟩

theorem FairRun.next_line (hrun : FairRun asks states) {i i' : Instr} {n k : Nat}
    (hnext : (i, i') ∈ groupLines.zip groupLines.tail) (hk : AtLine i n (states k)) :
    UnlessDetached asks states (fun j => AtLine i' n (states j)) k := by
  have hi : i ∈ groupLines := (List.of_mem_zip hnext).1
  refine (hrun.line_taken hi hk).bind fun j _ ⟨hj, i'', hend, ht⟩ => ?_
  obtain ⟨hcompose, hdetach, hwrite⟩ := hend.ne hi
  have hlast : AtLine i' n (states (j + 1)) := hj.next hnext hend (hrun.isRun.takes ht hwrite)
  exact .after ht hcompose hdetach ⟨j + 1, Nat.le_refl _, fun m hkm hmj => absurd hmj (Nat.not_lt.2 hkm), .inr hlast⟩

/-! ### The groups of a frame -/

/-- The pulse of group `n` has ended between places `k` and `j` (R178). -/
abbrev PulseEnded (asks : Nat → Request) (states : Nat → State) (k j n : Nat) : Prop :=
  ∃ m, k ≤ m ∧ m < j ∧ Takes asks states m .expire ∧ (states m).cg.toNat = n

/-- R171, R186: in a fair run a group goes on to its ADVANCE, past the end of its pulse. -/
theorem FairRun.group (hrun : FairRun asks states) {n k : Nat} (hk : AtLine .sendIssue n (states k)) :
    UnlessDetached asks states (fun j => AtLine .advance n (states j) ∧ Takes asks states j .advance ∧
      PulseEnded asks states k j n) k := by
  refine (hrun.next_line (i' := .busOk) (by decide) hk).bind fun j₁ h₁ hbus => ?_
  refine (hrun.next_line (i' := .sendDone) (by decide) hbus).bind fun j₂ h₂ hdone => ?_
  refine (hrun.next_line (i' := .expire) (by decide) hdone).bind fun j₃ h₃ hpulse => ?_
  refine (hrun.line_taken (by decide) hpulse).bind fun m hm ⟨hexpire, i, hi, ht⟩ => ?_
  obtain rfl : i = .expire := by simpa [EndsLine] using hi
  have hadvance : AtLine .advance n (states (m + 1)) :=
    hexpire.next (by decide) (.inl rfl) (hrun.isRun.takes ht nofun)
  refine .after ht nofun nofun ((hrun.line_taken (by decide) hadvance).map fun j hmj ⟨hj, i', hi', ht'⟩ => ?_)
  obtain rfl : i' = .advance := by simpa [EndsLine] using hi'
  exact ⟨hj, ht', m, by omega, hmj, ht, hexpire.group⟩

/-- R179: before group 3 an ADVANCE leads to the next group's SEND.ISSUE. -/
theorem AtLine.advance_next {n : Nat} {s t : State} (hs : AtLine .advance n s) (hn : n < 3)
    (h : exec .advance s = .next t) : AtLine .sendIssue (n + 1) t := by
  obtain ⟨_, hstp, hcg⟩ := hs
  obtain ⟨hc, ⟨hatt, _, hst, _⟩, rfl⟩ := execAdvance_next h
  obtain ⟨hbsy, hdon, _⟩ := (coherent_iff_advance hatt hst).1 hc
  have hlast : s.cg ≠ 3 := by
    intro h3
    rw [h3] at hcg
    exact absurd hcg.symm (Nat.ne_of_lt hn)
  rw [advanceState_eq, if_neg hlast]
  refine ⟨⟨hatt, hstp, rfl, hbsy, hdon⟩, hstp, ?_⟩
  simp only [BitVec.toNat_add, hcg]
  exact Nat.mod_eq_of_lt (Nat.succ_lt_succ hn)

/-- R183, R186: in a fair run a frame goes on to the ADVANCE of each group, past the pulses up to it. -/
theorem FairRun.groups (hrun : FairRun asks states) {k : Nat} (hk : AtLine .sendIssue 0 (states k)) {n : Nat}
    (hn : n ≤ 3) :
    UnlessDetached asks states (fun j => AtLine .advance n (states j) ∧ Takes asks states j .advance ∧
      ∀ g ≤ n, PulseEnded asks states k j g) k := by
  induction n with
  | zero =>
    refine (hrun.group hk).map fun j _ ⟨hj, ht, hpulse⟩ => ⟨hj, ht, fun g hg => ?_⟩
    rwa [Nat.le_zero.1 hg]
  | succ n ih =>
    refine (ih (Nat.le_of_succ_le hn)).bind fun j hkj ⟨hj, ht, hpulses⟩ => ?_
    have hnext := hj.advance_next hn (hrun.isRun.takes ht nofun)
    refine .after ht nofun nofun ((hrun.group hnext).map fun l hjl ⟨hl, ht', hpulse⟩ => ⟨hl, ht', fun g hg => ?_⟩)
    rcases Nat.le_succ_iff.1 hg with hg | rfl
    · obtain ⟨m, hkm, hmj, hend⟩ := hpulses g hg
      exact ⟨m, hkm, by omega, hend⟩
    · obtain ⟨m, hjm, hml, hend⟩ := hpulse
      exact ⟨m, by omega, hml, hend⟩

end Runs

/-! ### The statements -/

/-- Settles O59: the bus becomes free, DRAIN is taken, and its events end the trace. -/
theorem everyDetachIsFollowedByDetached : Obligations.EveryDetachIsFollowedByDetached := by
  intro asks states hrun k ht
  have hdetach := hrun.isRun.takes ht nofun
  obtain ⟨_, ⟨hatt, _⟩, hnext⟩ := execDetach_next hdetach
  rw [detachState_eq] at hnext
  obtain ⟨j, hkj, hg⟩ := hrun.guardDrain_of_stopped (k := k + 1) (by rw [hnext]; exact hatt) (by rw [hnext])
  obtain ⟨l, hjl, htd⟩ := hrun.drain_of_guardDrain hg
  have hkl : k < l := Nat.lt_of_lt_of_le hkj hjl
  obtain ⟨events, hevents⟩ := hrun.isRun.trace_append hkl.le
  obtain ⟨_, _, hdrained⟩ := execDrain_next (hrun.isRun.takes htd nofun)
  refine ⟨l, hkl, htd, by rw [hdrained]; rfl, ?_⟩
  rw [hdrained, drainState_trace, hevents, List.append_assoc, ← List.append_assoc events, ← List.append_assoc]
  exact ⟨_, rfl⟩

/-- Settles O60: COMPOSE leads to the first line of group 0, and the ADVANCE of group 3 to COMPOSE. -/
theorem everyFrameCompletes : Obligations.EveryFrameCompletes := by
  intro asks states hrun k ht
  have hfirst : AtLine .sendIssue 0 (states (k + 1)) := by
    obtain ⟨hc, ⟨hatt, hstp, hst⟩, _, _, _, _, _, _, _, _, _, _, _, _, hnext⟩ :=
      execCompose_next (hrun.isRun.takes ht nofun)
    obtain ⟨hbsy, hdon, _⟩ := (coherent_iff_between hatt (.inr hst)).1 hc
    rw [hnext]
    exact ⟨⟨hatt, hstp, rfl, hbsy, hdon⟩, hstp, rfl⟩
  obtain ⟨j, hkj, hquiet, hend⟩ := hrun.groups hfirst (Nat.le_refl 3)
  refine ⟨j, hkj, hquiet, hend.imp_right fun ⟨hj, hta, hpulses⟩ => ?_⟩
  have hlast : (states j).cg = 3 := BitVec.eq_of_toNat_eq hj.group
  obtain ⟨_, ⟨hatt, hstp, _⟩, hnext⟩ := execAdvance_next (hrun.isRun.takes hta nofun)
  refine ⟨hta, hlast, ?_, fun g => ?_⟩
  · rw [hnext, advanceState_eq, if_pos hlast]
    exact ⟨hatt, hstp, rfl⟩
  · obtain ⟨m, hkm, hmj, hte, hcg⟩ := hpulses g.toNat (Nat.le_of_lt_succ g.isLt)
    exact ⟨m, hkm, hmj, hte, BitVec.eq_of_toNat_eq hcg⟩

end Sys2Proof.Machine
end

section
/-! PROOFS. The interfaces (R210 to R227): the two failures of ATTACH (O17), the byte a WRITE leaves (O19), the bus's
two completions (O21), and instances that share nothing (O58). -/

namespace Sys2Proof.Machine

/-! ### WRITE -/

/-- R14: a write inside a memory goes through. -/
theorem Memory.exists_write_ok {m : Memory} {a : Nat} (name : MemoryName) (ha : a < m.size) (v : Byte) :
    ∃ m', m.write name a v = .ok m' :=
  ⟨_, if_pos ha⟩

/-- Settles O19: the address lies inside BM, so the write goes through, and the memories' law of reading applies. -/
theorem writeEffect : Obligations.WriteEffect := by
  intro s g bm addr data hc hatt hgeom hbm hsize haddr
  obtain ⟨bm', hw⟩ := Memory.exists_write_ok .bm (hsize ▸ haddr) data
  have hread := Memory.read_write (name' := .bm) hw
  exact ⟨bm', execWrite_of hc hatt hgeom hbm haddr hw, Memory.write_size hw, (hread addr).trans (if_pos rfl),
    fun a ha => (hread a).trans (if_neg ha)⟩

/-! ### Several instances -/

/-- R227: a step never renames its instance (log entry 23). -/
theorem step_unit {s t : State} (h : step s = .next t) : t.unit = s.unit := by
  obtain ⟨requests, k, rfl | ⟨i, hi⟩⟩ := step_next h
  · rfl
  · obtain ⟨_, _, _, hunit⟩ := traceOnlyGrows _ t i hi
    exact hunit

/-- What a step of one instance can do: nothing where there is no such instance, else that instance's own step, put in
its place (R227). -/
theorem stepInstance_next {k : Nat} {system system' : List State} (h : stepInstance k system = .next system') :
    (system[k]? = none ∧ system' = system) ∨
      ∃ s t, system[k]? = some s ∧ step s = .next t ∧ system' = system.set k t := by
  unfold stepInstance at h
  cases hs : system[k]? with
  | none =>
    rw [hs] at h
    exact .inl ⟨rfl, (Host.Outcome.next.inj h).symm⟩
  | some s =>
    cases ht : step s with
    | next t =>
      simp only [hs, ht] at h
      exact .inr ⟨s, t, rfl, ht, (Host.Outcome.next.inj h).symm⟩
    | fault f => simp [hs, ht] at h
    | refused r => simp [hs, ht] at h

/-- Putting back an element of the same image changes no image. -/
theorem map_set_of_getElem? {α β : Type} {f : α → β} {l : List α} {k : Nat} {a b : α} (ha : l[k]? = some a)
    (hf : f b = f a) : (l.set k b).map f = l.map f := by
  have hk : (l.map f)[k]? = some (f b) := by rw [List.getElem?_map, ha, hf, Option.map_some]
  obtain ⟨hlt, hget⟩ := List.getElem?_eq_some_iff.1 hk
  rw [List.map_set, ← hget, List.set_getElem_self]

/-- Settles O58: the system is the old one, or differs from it in the stepped instance, whose name stays. -/
theorem instancesShareNothing : Obligations.InstancesShareNothing := by
  intro system system' k h
  rcases stepInstance_next h with ⟨hnone, rfl⟩ | ⟨s, t, hs, ht, rfl⟩
  · exact ⟨rfl, rfl, fun _ _ => rfl, fun s hs => absurd (hnone.symm.trans hs) nofun⟩
  · have hk : k < system.length := (List.getElem?_eq_some_iff.1 hs).1
    refine ⟨List.length_set, map_set_of_getElem? hs (step_unit ht),
      fun j hj => List.getElem?_set_ne hj.symm, fun s' hs' => ?_⟩
    obtain rfl : s = s' := Option.some.inj (hs.symm.trans hs')
    exact ⟨t, ht, List.getElem?_set_self hk⟩

/-! ### ATTACH -/

/-- R212: a rejected configuration fails with the derivation's code, whatever the allocator draws. -/
theorem attachState_of_derive_error {w h n : Option Nat} {s : State} {r : AttachResult} (a : Alloc)
    (hd : derive s.platform (w.getD defaultWidth) (h.getD defaultHeight) (n.getD defaultPanelCount) = .error r) :
    attachState w h n a s = attachFailed s r := by
  simp only [attachState, configured, hd]

/-- R212, R242: an accepted configuration fails with E_NOMEM where the allocator fails. -/
theorem attachState_of_alloc_fail {w h n : Option Nat} {s : State} {g : Geometry}
    (hd : derive s.platform (w.getD defaultWidth) (h.getD defaultHeight) (n.getD defaultPanelCount) = .ok g) :
    attachState w h n .fail s = attachFailed s .eNomem := by
  simp only [attachState, configured, hd]

/-- Settles O17: unattached, ATTACH's guard holds, and both failures only append their result. -/
theorem attachFails : Obligations.AttachFails := by
  intro s w h n a hc hatt
  have hstep (a : Alloc) : exec (.attach w h n a) s = .next (attachState w h n a s) :=
    guarded_of hc (guardAttach_of_unattached hc hatt)
  constructor
  · intro r hd
    rw [hstep, attachState_of_derive_error a hd]
    rfl
  · intro g hd
    rw [hstep, attachState_of_alloc_fail hd]
    rfl

/-! ### The bus -/

/-- Settles O21: both completions have one guard, which asks for BSY = 1 and does not read STP. -/
theorem busCompletes : Obligations.BusCompletes := by
  refine fun s hc => ⟨fun hatt hst hbsy hdon => ?_, fun hfree => ?_⟩
  · have hg : GuardBusOk s := ⟨hatt, hst, hbsy, hdon⟩
    exact ⟨guarded_of hc hg, guarded_of hc hg⟩
  · have hg : ¬ GuardBusOk s := fun ⟨_, _, hbsy, _⟩ => Bool.noConfusion (hfree.symm.trans hbsy)
    exact ⟨guarded_refuses hc hg, guarded_refuses hc hg⟩

end Sys2Proof.Machine
end

section
/-! PROOFS. The block at rest (R271): while unattached, ATTACH is the only operation that takes its step (O11). -/

namespace Sys2Proof.Machine

/-- R104, R246: an operation whose guard fails is refused. -/
theorem exec_refused_of_not_guardOf {i : Instr} {s : State} (hc : s.Coherent) (hg : ¬ guardOf i s) :
    ∃ m, exec i s = .refused (.guardFails m) := by
  cases i <;> exact ⟨_, guarded_refuses hc hg⟩

/-- Settles O11: R37 leaves an unattached block the guard of ATTACH, and every other guard asks for ATT = 1. -/
theorem onlyAttachWhileUnattached : Obligations.OnlyAttachWhileUnattached := by
  intro s hc hatt
  refine ⟨fun w h n a => ?_, fun i hother => exec_refused_of_not_guardOf hc fun hg => ?_⟩
  · exact ⟨attachState w h n a s, guarded_of hc (guardAttach_of_unattached hc hatt)⟩
  · have hattached : s.att = true := attached_of_guardOf hg hother
    exact Bool.noConfusion (hatt.symm.trans hattached)

end Sys2Proof.Machine
end
